-- ==== Sys2Proof/Word.lean ====
section
/-! DEFINITION. The word types of the host interface and the complex sample (spec/00_scope.md R12, spec/20_memory.md R73). -/

namespace Sys2Proof

/-- A host register or one word of a grid element: 32 bits, bit 0 the least significant (R12). -/
abbrev Word := BitVec 32

/-- One byte of the grid's storage. -/
abbrev Byte := BitVec 8

/-- One complex sample of the grid: the IEEE 754 binary32 bit patterns of its two parts (R71, R73).
Any pattern is allowed (R88). -/
structure Sample where
  re : Word
  im : Word
  deriving DecidableEq, Repr, Inhabited

end Sys2Proof
end

