-- ==== Sys2Proof/Syntax.lean ====
section
/-! DEFINITION. The block's instructions: the six commands of spec/30_encoding.md R101. A command word has no operand
fields (R103): every operand of a command is a host register (R105 to R107). -/

namespace Sys2Proof

/-- The commands a host write to CMD can start, one constructor for each row of the opcode table (R101). -/
inductive Instr where
  /-- OP 0x00: writes ERR = OK, STAGE = 0 (R152). -/
  | nop
  /-- OP 0x01: builds the codec state and its enabled facets (R153). -/
  | init
  /-- OP 0x02: message registers to the PBCH resource elements of the grid (R154). -/
  | encode
  /-- OP 0x03: PBCH resource elements of the grid to the result registers, behind the checksum gate (R155). -/
  | decode
  /-- OP 0x04: message registers to PACKED (R137). -/
  | pack
  /-- OP 0x05: PACKED to the result registers (R138). -/
  | unpack
  deriving DecidableEq, Repr

end Sys2Proof
end

