-- ==== Sys2Proof/WellFormed.lean ====
section
/-! DEFINITION. Which commands and which command words are well formed (spec/30_encoding.md R100 to R103). -/

namespace Sys2Proof

/-- A command carries no operand (R103), so nothing about one can be ill formed. -/
def Instr.wellFormed : Instr → Bool
  | .nop => true
  | .init => true
  | .encode => true
  | .decode => true
  | .pack => true
  | .unpack => true

/-- A command word is the word of some command when its OP is not reserved: OP 0x06 to 0xFF are (R102), and bits 31:8
are ignored (R100). -/
def commandWordWellFormed (w : Word) : Bool := decide (w.toNat % 256 ≤ 5)

end Sys2Proof
end

