-- ==== Sys2Proof/Decode.lean ====
section
/-! DEFINITION. The command word's decoder, total on any 32-bit word, and its encoder (spec/30_encoding.md R100 to R103).
A command is one 32-bit word, and the interface is word-only (spec/20_memory.md R78), so the decoder reads a word. DEDUCED, log 19. -/

namespace Sys2Proof

/-- Why a word is no command: its OP is reserved (R102). -/
inductive DecodeError where
  /-- OP = CMD[7:0] is 0x06 to 0xFF. -/
  | reservedOpcode (op : BitVec 8)
  deriving DecidableEq, Repr

/-- One row of the opcode table (R100, R101): a word is the row's command when its bits under the mask are `pattern`. -/
structure OpcodeRow where
  pattern : Word
  mask : Word
  instr : Instr
  deriving DecidableEq, Repr

/-- The opcode byte of each command (R101). -/
def Instr.opcode : Instr → BitVec 8
  | .nop => 0x00#8
  | .init => 0x01#8
  | .encode => 0x02#8
  | .decode => 0x03#8
  | .pack => 0x04#8
  | .unpack => 0x05#8

/-- The opcode table (R100, R101). -/
def opcodeTable : List OpcodeRow :=
  [ { pattern := 0x00000000#32, mask := 0x000000FF#32, instr := .nop },
    { pattern := 0x00000001#32, mask := 0x000000FF#32, instr := .init },
    { pattern := 0x00000002#32, mask := 0x000000FF#32, instr := .encode },
    { pattern := 0x00000003#32, mask := 0x000000FF#32, instr := .decode },
    { pattern := 0x00000004#32, mask := 0x000000FF#32, instr := .pack },
    { pattern := 0x00000005#32, mask := 0x000000FF#32, instr := .unpack } ]

/-- The field OP of a command word: CMD[7:0] (R33, R100). -/
def opField (w : Word) : BitVec 8 := w.extractLsb' 0 8

/-- The command a word written to CMD selects, from OP alone (R100), or the reserved OP (R102). -/
def decode (w : Word) : Except DecodeError Instr :=
  match opcodeTable.find? (fun r => w &&& r.mask == r.pattern) with
  | some r => .ok r.instr
  | none => .error (.reservedOpcode (opField w))

/-- A word of the command `i`, with `hi` in the ignored bits 31:8 (R100). -/
def encodeWith (hi : BitVec 24) (i : Instr) : Word := hi ++ i.opcode

/-- The word `CMD <mnemonic>` writes (R111): OP, with the ignored bits 0. -/
def encode (i : Instr) : Word := encodeWith 0#24 i

/-- The command read from a table row's `nbits` bits `w`, bit 0 the least significant; every bit above is 0. A command is
one 32-bit word (R103). -/
def decodeTableWord (nbits w : Nat) : Option Instr :=
  match decode (BitVec.ofNat 32 (w % 2 ^ nbits)) with
  | .ok i => some i
  | .error _ => none

end Sys2Proof
end

