-- ==== Sys2Proof/Machine/Bits.lean ====
section
/-! DEFINITION. Bit vectors by element (spec/00_scope.md R11): element n of a spec vector is bit n of a `BitVec`
(spec/92_eei_decisions.md D41). -/

namespace Sys2Proof.Machine

/-- `X[i] <- b`, every other element unchanged. -/
def setBit {n : Nat} (x : BitVec n) (i : Nat) (b : Bool) : BitVec n :=
  if b then x ||| BitVec.twoPow n i else x &&& ~~~(BitVec.twoPow n i)

/-- The vector whose element i is `f i`. -/
def bitsOf : (n : Nat) → (Nat → Bool) → BitVec n
  | 0, _ => 0#0
  | n + 1, f => BitVec.cons (f n) (bitsOf n f)

/-- Bit `i` of a word, as a one-bit field shifted to its place: `b << i`. -/
def flagAt (b : Bool) (i : Nat) : Word := (BitVec.ofBool b).setWidth 32 <<< i

end Sys2Proof.Machine
end

