-- ==== Sys2Proof/Config.lean ====
section
/-! DEFINITION. What an implementation fixes: the constants of spec/00_scope.md R9, the external primitives a model takes as
parameters (R10), and the free values the spec leaves open (opaque constants: nothing can be proved of their value). -/

namespace Sys2Proof

/-- A soft value: its sign carries the bit decision, positive for 0, and 0 is an erasure (R15).
Every binary32 value is a rational number. DESIGN CHOICE, log 18. -/
abbrev Soft := Rat

/-- CODE, the polar code parameters `get_code` returns (spec/43_channel_coding.md R204): the mother length the block checks, and
the rest of the construction, which only the polar primitives read. DESIGN CHOICE, log 7. -/
structure PolarCode where
  /-- `CODE.N`. -/
  motherLength : Nat
  /-- Names the construction (frozen set and tables), opaque to the block (R213). -/
  construction : Nat
  deriving DecidableEq, Repr, Inhabited

/-- The lengths and the flag the block passes on a rate-matcher call (R207, R209, R213). -/
structure RateMatchCall where
  codedLen : Nat
  matchedLen : Nat
  infoLen : Nat
  interleave : Bool
  deriving DecidableEq, Repr

/-- The groups of external primitives INIT initialises (spec/41_codec_commands.md R153). -/
inductive PrimGroup where
  /-- CRC engine and sequence generator. -/
  | common
  /-- Polar encoder, transmit rate matcher, QPSK mapper. -/
  | encodeFacet
  /-- Polar decoder, receive rate matcher, QPSK demapper. -/
  | decodeFacet
  deriving DecidableEq, Repr

/-- The parameters of the block (R10), each a total function. A bit vector of the spec is a `BitVec` whose bit n is element n
(spec/92_eei_decisions.md D41). -/
structure Params where
  /-- The interleaver table: logical index to physical position, a permutation of 0..31 (R130). -/
  G : Fin 32 → Fin 32
  /-- `prbs seed n` is bit n of the scrambling sequence keyed by seed (R180). -/
  prbs : Nat → Nat → Bool
  /-- The checksum of a 32-bit vector (R201). -/
  crc : BitVec 32 → BitVec 24
  /-- The checksum check of a K-bit vector (R203). -/
  crcCheck : BitVec 56 → Bool
  /-- `get_code(K, E, order_max)`: code parameters, or none for a failure (R204). -/
  getCode : Nat → Nat → Nat → Option PolarCode
  /-- Channel allocation (R205). -/
  polarAlloc : BitVec 56 → PolarCode → BitVec 512
  /-- Polar encoding (R206). -/
  polarEncode : BitVec 512 → PolarCode → BitVec 512
  /-- Forward rate matching (R207). -/
  rmTx : RateMatchCall → BitVec 512 → BitVec 864
  /-- Inverse rate matching and its success indicator (R209). -/
  rmRx : RateMatchCall → Vector Soft 864 → Vector Soft 512 × Bool
  /-- Polar decoding and its success indicator (R210). -/
  polarDecode : Vector Soft 512 → PolarCode → BitVec 56 × Bool
  /-- The soft demapper of one sample (R234). -/
  demod : Sample → Soft × Soft
  /-- Whether a group of primitives initialises (R153). -/
  primInitOk : PrimGroup → Bool

namespace Config

/-- `A`, the packed payload length (R9). -/
abbrev packedLen : Nat := 32
/-- `L_CRC` (R9). -/
abbrev crcLen : Nat := 24
/-- `K = A + L_CRC` (R9). -/
abbrev codedInputLen : Nat := 56
/-- `E`, the rate-matched length (R9). -/
abbrev matchedLen : Nat := 864
/-- `E/2`, the symbol count (R9). -/
abbrev symbolCount : Nat := 432
/-- `N_RS`, the reference-signal resource elements per occasion (R9, spec/90_conflicts.md C3). -/
abbrev refSignalCount : Nat := 144
/-- `N_MAX_ORDER` (R9). -/
abbrev maxOrder : Nat := 9
/-- `N`, the polar mother code length (R9). -/
abbrev motherLen : Nat := 512
/-- `W`, the subcarriers of the SSB (R9). -/
abbrev width : Nat := 240
/-- `GRID_LEN` (R9). -/
abbrev gridLen : Nat := 960
/-- The largest legal N_id (R9). -/
abbrev maxNid : Nat := 1007

/-- The bytes of the aperture (spec/20_memory.md R70). -/
abbrev apertureSize : Nat := 0x4000
/-- The first offset of the grid space (R70). -/
abbrev gridBase : Nat := 0x1000
/-- The first offset after the grid space (R70). -/
abbrev gridEnd : Nat := 0x2E00

/-- The aperture's base address in units of its size, a platform parameter with no stated value (R75). Log 15. -/
opaque baseIndex : Nat

/-- `BASE`, a multiple of 0x4000 (R75). -/
def base : Nat := baseIndex * apertureSize

/-- FREE VALUE: the byte at a grid offset that nothing has written since the n-th reset (spec/70_reset_and_hazards.md R321).
Log 11. -/
opaque gridByteAtReset : Nat → Nat → Byte

/-- FREE VALUE: the n-th word drawn for an `any` of spec/60_exceptions.md R283. Log 10. -/
opaque freeWord : Nat → Word

/-- External, no default: what `get_code(K, E, n_max)` constructs beside N (R204). Log 6. -/
opaque codeConstruction : Nat → Nat → Nat → Nat

/-- External, no default: channel allocation (R205). Log 6. -/
opaque polarAlloc : BitVec 56 → PolarCode → BitVec 512

/-- External, no default: polar encoding (R206). Log 6. -/
opaque polarEncode : BitVec 512 → PolarCode → BitVec 512

/-- External, no default: inverse rate matching (R209). Log 6. -/
opaque rmRx : RateMatchCall → Vector Soft 864 → Vector Soft 512 × Bool

/-- External, no default: polar decoding (R210). Log 6. -/
opaque polarDecode : Vector Soft 512 → PolarCode → BitVec 56 × Bool

end Config

end Sys2Proof
end

