-- ==== Sys2Proof/Machine/State.lean ====
section
/-! DEFINITION. The state of the block as plain data (spec/10_state.md, spec/20_memory.md), the reasons a step can stop, and the
state after reset (spec/70_reset_and_hazards.md R320). -/

namespace Sys2Proof.Machine

/-- The error codes STATUS.ERR can hold (spec/60_exceptions.md R281); codes 10..15 are never reported. -/
inductive ErrorCode where
  | ok
  | invalidInput
  | noFacet
  | initFail
  | notReady
  | facetDisabled
  | decodeReject
  | primitiveFail
  | illegalCmd
  | internal
  deriving DecidableEq, Repr

/-- The stage codes STATUS.STAGE can hold (spec/30_encoding.md R104), each for its encode and its decode direction. -/
inductive StageCode where
  | none
  | pack
  | scramble1
  | crc
  | polar
  | rateMatch
  | scramble2
  | qpsk
  | reMap
  | init
  deriving DecidableEq, Repr

/-- The fields of STATUS (spec/10_state.md R34). Bits 3 and 31:14 are reserved and read 0. -/
structure Status where
  ready : Bool
  busy : Bool
  crcOk : Bool
  err : ErrorCode
  stage : StageCode
  encReady : Bool
  decReady : Bool
  deriving DecidableEq, Repr

/-- The widths of an access on the platform's bus; the block serves 32-bit ones only (spec/20_memory.md R78). -/
inductive AccessWidth where
  | w8
  | w16
  | w32
  | w64
  deriving DecidableEq, Repr

/-- What the world outside the block can do to it: a host access at an offset from BASE (R74, R78), or the platform's reset
(spec/70_reset_and_hazards.md R320). The data of a write is the word a 32-bit write carries; a write of another width is ignored,
so its data is not held. -/
inductive HostEvent where
  | read (width : AccessWidth) (offset : Nat)
  | write (width : AccessWidth) (offset : Nat) (data : Word)
  | reset
  deriving DecidableEq, Repr

/-- The grid's storage: the bytes written since reset, by aperture offset. An offset it does not list holds no value anything
has written; what a read makes of one is `gridByte` (log 11). -/
abbrev Memory := List Host.Cell

/-- The canonical form from an offset on: offsets strictly rising, all below the end of the grid space. -/
def Memory.wfFrom : Nat → Memory → Bool
  | _, [] => true
  | lo, (a, _) :: m => decide (lo ≤ a) && decide (a < Config.gridEnd) && Memory.wfFrom (a + 1) m

/-- The canonical form of the grid's storage: offsets strictly rising and inside the grid space. -/
def Memory.wf (m : Memory) : Bool := Memory.wfFrom Config.gridBase m

/-- Everything the spec gives the block, and four fields of the model's own. -/
structure State where
  /-- STATUS (R34 to R40). -/
  status : Status
  /-- CFG (R41 to R43). -/
  cfg : Word
  /-- MSG_CTRL (R44). -/
  msgCtrl : Word
  /-- MSG_PAYLOAD (R45). -/
  msgPayload : Word
  /-- DEC_SSB (R46). -/
  decSsb : Word
  /-- RES_CTRL (R47). -/
  resCtrl : Word
  /-- RES_PAYLOAD (R48). -/
  resPayload : Word
  /-- PACKED (R49). -/
  packed : Word
  /-- CODE, absent or the polar code parameters (R51). -/
  code : Option PolarCode
  /-- The grid memory (R50). -/
  grid : Memory
  /-- The MODEL's: host accesses and resets still to come, in the host's program order (R81). Log 1. -/
  pending : List HostEvent
  /-- The MODEL's: what the last host read returned. Log 2. -/
  readData : Word
  /-- The MODEL's: how many free words have been drawn. Log 10. -/
  freeIndex : Nat
  /-- The MODEL's: how many platform resets there have been; each draws new grid contents. Log 11. -/
  resetCount : Nat
  deriving DecidableEq, Repr

/-- The reasons a step stops with a fault. None is a state of the block: an error of a command is a next state (R280). -/
inductive Fault where
  /-- Raised by a host access at an offset of 0x4000 or more: the aperture holds no such address (spec/20_memory.md R70).
  Safe: the model stops. Log 13. -/
  | outsideAperture (offset : Nat)
  /-- Raised by ENCODE or DECODE in a state with READY = 1 and no CODE, which no run reaches (INIT writes both together, R153).
  Safe: the model stops. Log 14. -/
  | codeAbsent
  deriving DecidableEq, Repr

/-- The reasons a step is refused. -/
inductive Refusal where
  /-- Raised by `exec` for a command that has no meaning yet. Safe. No arm uses it. -/
  | notModelled (mnemonic : String)
  /-- Raised by any host access but a read of STATUS in a state with BUSY = 1 (spec/93_implementation_defined.md U6: refuse).
  No step leaves BUSY = 1. Safe: the model stops. Log 3. -/
  | hostAccessWhileBusy
  deriving DecidableEq, Repr

/-- STATUS after reset: 0x00000000 (R320). -/
def Status.reset : Status where
  ready := false
  busy := false
  crcOk := false
  err := .ok
  stage := .none
  encReady := false
  decReady := false

/-- The block right after reset (spec/70_reset_and_hazards.md R320): every register 0, CODE absent, no facet built, the grid
unspecified. -/
def State.reset : State where
  status := .reset
  cfg := 0#32
  msgCtrl := 0#32
  msgPayload := 0#32
  decSsb := 0#32
  resCtrl := 0#32
  resPayload := 0#32
  packed := 0#32
  code := none
  grid := []
  pending := []
  readData := 0#32
  freeIndex := 0
  resetCount := 0

end Sys2Proof.Machine
end

