-- ==== Sys2Proof/Machine/Operands.lean ====
section
/-! DEFINITION. Operand assembly: the fields commands read from the registers, and the words they write back
(spec/30_encoding.md R105 to R108), with the Lmax-dependent constants (spec/41_codec_commands.md R150, R151). -/

namespace Sys2Proof.Machine

/-- Lmax, one of 4, 8, 64 (R9, R42). -/
inductive Lmax where
  | l4
  | l8
  | l64
  deriving DecidableEq, Repr

/-- The code of Lmax in CFG.LMAX; code 3 is invalid (R42). -/
def Lmax.ofCode (c : BitVec 2) : Option Lmax :=
  if c = 0#2 then some .l4 else if c = 1#2 then some .l8 else if c = 2#2 then some .l64 else none

/-- `M`, the stage-1 stride: A - 6 when Lmax = 64, else A - 3 (spec/42_scrambling.md R183; spec/90_conflicts.md C1). -/
def Lmax.stride : Lmax → Nat
  | .l4 => Config.packedLen - 3
  | .l8 => Config.packedLen - 3
  | .l64 => Config.packedLen - 6

/-- `L2`, the stage-2 selector modulus (R151, R188). -/
def Lmax.selectorModulus : Lmax → Nat
  | .l4 => 4
  | .l8 => 8
  | .l64 => 8

/-- The message of one occasion (R44, R45, R106). Every value of every field is legal (R55). -/
structure Message where
  sfn4 : BitVec 4
  hrf : Bool
  kssb : Bool
  ssb : BitVec 6
  payload : BitVec 24
  deriving DecidableEq, Repr

/-- The configuration a command runs with: N_id and Lmax, both legal (R105, R150). -/
structure CodecConfig where
  nid : Nat
  lmax : Lmax
  deriving DecidableEq, Repr

/-- CFG.NID (R41, R105). -/
def nidField (cfg : Word) : Nat := (cfg.extractLsb' 0 10).toNat

/-- CFG.LMAX (R42, R105). -/
def lmaxField (cfg : Word) : BitVec 2 := cfg.extractLsb' 16 2

/-- CFG.EN_ENC (R43, R105). -/
def enEncField (cfg : Word) : Bool := cfg.getLsbD 24

/-- CFG.EN_DEC (R43, R105). -/
def enDecField (cfg : Word) : Bool := cfg.getLsbD 25

/-- `cfg_valid` (R150): N_id at most 1007 and Lmax code not 3; the configuration where it holds. -/
def codecConfig (cfg : Word) : Option CodecConfig :=
  if nidField cfg ≤ Config.maxNid then (Lmax.ofCode (lmaxField cfg)).map fun l => { nid := nidField cfg, lmax := l }
  else none

/-- The message operands of ENCODE and PACK (R106). -/
def messageOperand (msgCtrl msgPayload : Word) : Message where
  sfn4 := msgCtrl.extractLsb' 0 4
  hrf := msgCtrl.getLsbD 4
  kssb := msgCtrl.getLsbD 5
  ssb := msgCtrl.extractLsb' 8 6
  payload := msgPayload.extractLsb' 0 24

/-- `issb`, the SSB index of DECODE and UNPACK (R107). -/
def ssbOperand (decSsb : Word) : BitVec 6 := decSsb.extractLsb' 0 6

/-- The word RES_CTRL gets: `zext_32(sfn4 | hrf << 4 | kssb << 5 | ssb << 8)` (R108). -/
def Message.ctrlWord (m : Message) : Word :=
  m.sfn4.setWidth 32 ||| flagAt m.hrf 4 ||| flagAt m.kssb 5 ||| (m.ssb.setWidth 32 <<< 8)

/-- The word RES_PAYLOAD gets: `zext_32(payload)` (R108). -/
def Message.payloadWord (m : Message) : Word := m.payload.setWidth 32

/-- The defined bits of CFG (R41 to R43). -/
def cfgMask : Word := 0x030303FF#32

/-- The defined bits of MSG_CTRL and RES_CTRL (R44, R47). -/
def ctrlMask : Word := 0x00003F3F#32

/-- The defined bits of MSG_PAYLOAD and RES_PAYLOAD (R45, R48). -/
def payloadMask : Word := 0x00FFFFFF#32

/-- The defined bits of DEC_SSB (R46). -/
def decSsbMask : Word := 0x0000003F#32

end Sys2Proof.Machine
end

