-- ==== Sys2Proof/Machine/Coding.lean ====
section
/-! DEFINITION. The block's side of the checksum and of the polar-code rate matcher (spec/43_channel_coding.md): which operands go
in, and how results are used. -/

namespace Sys2Proof.Machine

/-- The lengths and the interleave flag of every rate-matcher call: N = 512, E = 864, K = 56, flag 0 (R207, R209). -/
def rateMatchCall : RateMatchCall where
  codedLen := Config.motherLen
  matchedLen := Config.matchedLen
  infoLen := Config.codedInputLen
  interleave := false

/-- `C = B ++ crc(B)`: element 32 + i of C is parity bit i (R201). -/
def attachCrc (p : Params) (B : BitVec 32) : BitVec 56 := p.crc B ++ B

/-- Encode stages 4 and 5: allocation, polar encoding, rate matching (R205 to R207). -/
def channelEncode (p : Params) (code : PolarCode) (C : BitVec 56) : BitVec 864 :=
  p.rmTx rateMatchCall (p.polarEncode (p.polarAlloc C code) code)

end Sys2Proof.Machine
end

