-- ==== Sys2Proof/Machine/Flags.lean ====
section
/-! DEFINITION. STATUS: the numbers of its codes, the word a host reads, and the two ways a command ends (spec/10_state.md
R34 to R40, spec/30_encoding.md R104, R109, spec/60_exceptions.md R280, R281). -/

namespace Sys2Proof.Machine

/-- The value of STATUS.ERR (R281). -/
def ErrorCode.code : ErrorCode → BitVec 4
  | .ok => 0#4
  | .invalidInput => 1#4
  | .noFacet => 2#4
  | .initFail => 3#4
  | .notReady => 4#4
  | .facetDisabled => 5#4
  | .decodeReject => 6#4
  | .primitiveFail => 7#4
  | .illegalCmd => 8#4
  | .internal => 9#4

/-- The value of STATUS.STAGE (R104). -/
def StageCode.code : StageCode → BitVec 4
  | .none => 0#4
  | .pack => 1#4
  | .scramble1 => 2#4
  | .crc => 3#4
  | .polar => 4#4
  | .rateMatch => 5#4
  | .scramble2 => 6#4
  | .qpsk => 7#4
  | .reMap => 8#4
  | .init => 9#4

/-- Whether a stage code is one of the pipeline's, 1 to 8 (R283). -/
def StageCode.isPipeline : StageCode → Bool
  | .none => false
  | .init => false
  | .pack => true
  | .scramble1 => true
  | .crc => true
  | .polar => true
  | .rateMatch => true
  | .scramble2 => true
  | .qpsk => true
  | .reMap => true

/-- The STATUS word (R109): `READY | BUSY << 1 | CRC_OK << 2 | ERR << 4 | STAGE << 8 | ENC_READY << 12 | DEC_READY << 13`. -/
def Status.word (t : Status) : Word :=
  flagAt t.ready 0 ||| flagAt t.busy 1 ||| flagAt t.crcOk 2 ||| (t.err.code.setWidth 32 <<< 4) |||
    (t.stage.code.setWidth 32 <<< 8) ||| flagAt t.encReady 12 ||| flagAt t.decReady 13

/-- A command's end: STATUS.ERR and STATUS.STAGE are written once (R293), and BUSY goes to 0 with the command's last write
(R36). -/
def Status.finish (t : Status) (e : ErrorCode) (st : StageCode) : Status :=
  { t with err := e, stage := st, busy := false }

/-- Every pair of error and stage a command can end with (R292, with R291: INTERNAL is never raised). -/
def Status.legal (t : Status) : Bool :=
  match t.err, t.stage with
  | .ok, .none => true
  | .invalidInput, .none => true
  | .notReady, .none => true
  | .facetDisabled, .none => true
  | .illegalCmd, .none => true
  | .noFacet, .init => true
  | .initFail, .init => true
  | .primitiveFail, .rateMatch => true
  | .primitiveFail, .polar => true
  | .decodeReject, .crc => true
  | _, _ => false

end Sys2Proof.Machine
end

