-- ==== Sys2Proof/Machine/Geometry.lean ====
section
/-! DEFINITION. The SSB grid's geometry: which elements carry PBCH data and which the reference signal
(spec/45_re_mapping.md R250 to R256). -/

namespace Sys2Proof.Machine

/-- Whether subcarrier `k` is reserved for the reference signal under shift `v` (R253). -/
def reserved (v k : Nat) : Bool := decide (k % 4 = v)

/-- The subcarriers the PBCH occupies in row `l`, reserved or not (R254). -/
def inRowSet (l k : Nat) : Bool :=
  if l = 1 ∨ l = 3 then decide (k < 240)
  else if l = 2 then decide (k < 48) || (decide (192 ≤ k) && decide (k < 240))
  else false

/-- The grid index of row `l`, subcarrier `k` (R71, R250). -/
def elementIndex (l k : Nat) : Nat := Config.width * l + k

/-- The elements of row `l` in the row set, by increasing subcarrier, that are reserved (`res = true`) or data
(`res = false`). -/
def rowElements (v : Nat) (res : Bool) (l : Nat) : List Nat :=
  ((List.range Config.width).filter fun k => inRowSet l k && (reserved v k == res)).map (elementIndex l)

/-- `PBCH_RE(v)`, the data resource elements in the order symbols are consumed: rows 1, 2, 3, each by increasing subcarrier
(R255). -/
def pbchRE (v : Nat) : List Nat := [1, 2, 3].flatMap (rowElements v false)

/-- `DMRS_RE(v)`, the same construction with the test reversed (R255). -/
def dmrsRE (v : Nat) : List Nat := [1, 2, 3].flatMap (rowElements v true)

/-- `v_dmrs = N_id mod 4` (R252). -/
def refShift (nid : Nat) : Nat := nid % 4

/-- `check_mapping(v)` (R259): the counts are 432 and N_RS. -/
def mappingOk (v : Nat) : Bool :=
  decide ((pbchRE v).length = Config.symbolCount) && decide ((dmrsRE v).length = Config.refSignalCount)

end Sys2Proof.Machine
end

