-- ==== Sys2Proof/Machine/Ops.lean ====
section
/-! DEFINITION. The named operations over the grid memory and the registers, the end of a command, and `raise`, the one way a
command ends with an error (spec/20_memory.md, spec/60_exceptions.md R283). The block has no return from an exception
(spec/60_exceptions.md R295). -/

namespace Sys2Proof.Machine

/-! ### The grid memory -/

/-- The byte stored at an offset since reset, if any. -/
def Memory.read? : Memory → Nat → Option Byte
  | [], _ => none
  | (a', b) :: m, a => if a = a' then some b else Memory.read? m a

/-- Store a byte, keeping the offsets in rising order. -/
def Memory.write : Memory → Nat → Byte → Memory
  | [], a, b => [(a, b)]
  | (a', b') :: m, a, b =>
    if a < a' then (a, b) :: (a', b') :: m
    else if a = a' then (a, b) :: m
    else (a', b') :: Memory.write m a b

/-- Store a word, its least significant byte at the lowest offset. DESIGN CHOICE, not observable (R77); log 12. -/
def Memory.writeWord (m : Memory) (a : Nat) (w : Word) : Memory :=
  (((m.write a (w.extractLsb' 0 8)).write (a + 1) (w.extractLsb' 8 8)).write (a + 2) (w.extractLsb' 16 8)).write (a + 3)
    (w.extractLsb' 24 8)

/-- What a grid byte reads as: the byte stored there, or a free value where nothing has been written since reset
(spec/70_reset_and_hazards.md R321). Log 11. -/
def gridByte (s : State) (a : Nat) : Byte :=
  match s.grid.read? a with
  | some b => b
  | none => Config.gridByteAtReset s.resetCount a

/-- The grid word at an offset (R73). -/
def readGridWord (s : State) (a : Nat) : Word :=
  gridByte s (a + 3) ++ gridByte s (a + 2) ++ gridByte s (a + 1) ++ gridByte s a

/-- Store the grid word at an offset (R73, R74). -/
def writeGridWord (s : State) (a : Nat) (w : Word) : State := { s with grid := s.grid.writeWord a w }

/-- The offset of grid element `i`'s first word (R73). -/
def elementOffset (i : Nat) : Nat := Config.gridBase + 8 * i

/-- `MemRead(i, 1)` (R72). -/
def memRead (s : State) (i : Nat) : Sample where
  re := readGridWord s (elementOffset i)
  im := readGridWord s (elementOffset i + 4)

/-- `MemWrite(i, 1, x)` (R72). -/
def memWrite (s : State) (i : Nat) (x : Sample) : State :=
  writeGridWord (writeGridWord s (elementOffset i) x.re) (elementOffset i + 4) x.im

/-! ### The registers as the host sees them -/

/-- What a served host read returns (R74): CMD reads 0 (R33), reserved offsets read 0 (R76). -/
def hostReadWord (s : State) (off : Nat) : Word :=
  if off = 0x004 then s.status.word
  else if off = 0x008 then s.cfg
  else if off = 0x00C then s.msgCtrl
  else if off = 0x010 then s.msgPayload
  else if off = 0x014 then s.decSsb
  else if off = 0x018 then s.resCtrl
  else if off = 0x01C then s.resPayload
  else if off = 0x020 then s.packed
  else if Config.gridBase ≤ off ∧ off < Config.gridEnd then readGridWord s off
  else 0#32

/-- What a served host write to any offset but CMD's stores (R74): the defined fields of the writable registers, grid words whole,
and nothing for read-only registers and reserved offsets. -/
def hostWriteWord (s : State) (off : Nat) (w : Word) : State :=
  if off = 0x008 then { s with cfg := w &&& cfgMask }
  else if off = 0x00C then { s with msgCtrl := w &&& ctrlMask }
  else if off = 0x010 then { s with msgPayload := w &&& payloadMask }
  else if off = 0x014 then { s with decSsb := w &&& decSsbMask }
  else if off = 0x020 then { s with packed := w }
  else if Config.gridBase ≤ off ∧ off < Config.gridEnd then writeGridWord s off w
  else s

/-! ### How a command starts and ends -/

/-- The host's write of CMD makes BUSY 1 (spec/10_state.md R36). -/
def beginCommand (s : State) : State := { s with status := { s.status with busy := true } }

/-- The end of a command that completes: ERR = OK, STAGE = 0 (R280). -/
def complete (s : State) : State := { s with status := s.status.finish .ok .none }

/-- The outputs of the command an error ends, which `raise` sets to unspecified values (R283). -/
inductive Outputs where
  /-- A command with no outputs to lose: INIT, PACK, UNPACK, NOP, a reserved opcode. -/
  | nothing
  /-- ENCODE: the elements of PBCH_RE(v). -/
  | encodeGrid (v : Nat)
  /-- DECODE: RES_CTRL and RES_PAYLOAD. -/
  | decodeResult
  deriving DecidableEq, Repr

/-- Set one grid element to `any`: two free words. -/
def drawElement (s : State) (i : Nat) : State :=
  { memWrite s i { re := Config.freeWord s.freeIndex, im := Config.freeWord (s.freeIndex + 1) } with
    freeIndex := s.freeIndex + 2 }

/-- Set RES_CTRL and RES_PAYLOAD to `any`, the reserved bits of both still 0 (R283). -/
def drawResult (s : State) : State :=
  { s with
    resCtrl := Config.freeWord s.freeIndex &&& ctrlMask
    resPayload := Config.freeWord (s.freeIndex + 1) &&& payloadMask
    freeIndex := s.freeIndex + 2 }

/-- Set a command's outputs to `any` (R283 (4)). Log 10. -/
def drawOutputs (s : State) : Outputs → State
  | .nothing => s
  | .encodeGrid v => (pbchRE v).foldl drawElement s
  | .decodeResult => drawResult s

/-- `raise E(st)` (R283): ERR and STAGE are written and the command ends. If `st` is a pipeline stage, the command's outputs become
unspecified. Nothing else changes. -/
def raise (out : Outputs) (e : ErrorCode) (st : StageCode) (s : State) : State :=
  let s' := if st.isPipeline then drawOutputs s out else s
  { s' with status := s'.status.finish e st }

/-- The platform's reset (spec/70_reset_and_hazards.md R320, R321): every register as after reset, CODE absent, the grid drawn anew.
What the host has still to do, what it last read and the count of free words are not the block's. Log 9. -/
def platformReset (s : State) : State :=
  { State.reset with
    pending := s.pending
    readData := s.readData
    freeIndex := s.freeIndex
    resetCount := s.resetCount + 1 }

end Sys2Proof.Machine
end

