-- ==== Sys2Proof/Machine/Mapping.lean ====
section
/-! DEFINITION. The SSB resource-element grid writer and reader (spec/45_re_mapping.md R257, R258). The mapping check they begin
with is `mappingOk` (R259). -/

namespace Sys2Proof.Machine

/-- The writes of `re_map(v, S)`: symbol n to element PBCH_RE(v)[n] (R257). -/
def reMap (v : Nat) (S : Vector Sample 432) (s : State) : State :=
  ((pbchRE v).zip S.toList).foldl (fun t w => memWrite t w.1 w.2) s

/-- The reads of `re_demap(v)`: sample n from element PBCH_RE(v)[n] (R258). -/
def reDemap (v : Nat) (s : State) : Vector Sample 432 :=
  Vector.ofFn fun n : Fin 432 => memRead s ((pbchRE v).getD n 0)

end Sys2Proof.Machine
end

