-- ==== Sys2Proof/Machine/Primitives.lean ====
section
/-! DEFINITION. The parameters the machine runs with: the spec's default where it gives one, each supplied by the spec from general
knowledge (spec/93_implementation_defined.md section 2), and an opaque constant where it gives none. PRESUMED, log 5; log 6. -/

namespace Sys2Proof.Machine

/-! ### The interleaver table (spec/40_packer_interleaver.md R131) -/

/-- The 32 physical positions, by logical index (R131). -/
def interleaverTable : List (Fin 32) :=
  [16, 23, 18, 17, 8, 30, 10, 6, 24, 7, 0, 5, 3, 2, 1, 4] ++
    [9, 11, 12, 13, 14, 15, 19, 20, 21, 22, 25, 26, 27, 28, 29, 31]

/-- The default `G` (R131). -/
def defaultG (j : Fin 32) : Fin 32 := interleaverTable.getD j 0

/-! ### The scrambling sequence (spec/42_scrambling.md R181) -/

/-- One step of a 31-bit shift register holding x[n] (bit 0) to x[n + 30]: bit 0 leaves, the new x[n + 31] enters at bit 30. -/
def shiftIn (feedback : BitVec 31 → Bool) (x : BitVec 31) : BitVec 31 :=
  BitVec.cons (feedback x) (x.extractLsb' 1 30)

/-- `k x`, with `x` evaluated first: what follows meets a numeral. It keeps the evaluation of long runs shallow. -/
def evaluated {α : Type} (x : BitVec 31) (k : BitVec 31 → α) : α :=
  match x.toNat with
  | 0 => k 0#31
  | n + 1 => k (BitVec.ofNat 31 (n + 1))

/-- The register after 2^k steps. -/
def shiftPow (feedback : BitVec 31 → Bool) : Nat → BitVec 31 → BitVec 31
  | 0, x => shiftIn feedback x
  | k + 1, x => evaluated (shiftPow feedback k x) (shiftPow feedback k)

/-- The register after `n mod 2^k` steps, by the binary digits of `n`. -/
def shiftDigits (feedback : BitVec 31 → Bool) (n : Nat) : Nat → BitVec 31 → BitVec 31
  | 0, x => x
  | k + 1, x =>
    if n / 2 ^ k % 2 = 1 then evaluated (shiftPow feedback k x) (shiftDigits feedback n k) else shiftDigits feedback n k x

/-- The register after `n` steps: x[n] to x[n + 30] (`shiftRun_eq_iterate` of Sys2Proof/Laws/Primitives.lean). -/
def shiftRun (feedback : BitVec 31 → Bool) (x : BitVec 31) (n : Nat) : BitVec 31 := shiftDigits feedback n (Nat.log2 n + 1) x

/-- `x1[n + 31] = (x1[n + 3] + x1[n]) mod 2` (R181). -/
def x1Feedback (x : BitVec 31) : Bool := x.getLsbD 3 ^^ x.getLsbD 0

/-- `x2[n + 31] = (x2[n + 3] + x2[n + 2] + x2[n + 1] + x2[n]) mod 2` (R181). -/
def x2Feedback (x : BitVec 31) : Bool := x.getLsbD 3 ^^ x.getLsbD 2 ^^ x.getLsbD 1 ^^ x.getLsbD 0

/-- `Nc` (R181). -/
def goldOffset : Nat := 1600

/-- The default `prbs`: the length-31 Gold sequence with c_init = seed (R181). -/
def goldBit (seed n : Nat) : Bool :=
  (shiftRun x1Feedback 1#31 (n + goldOffset)).getLsbD 0 ^^
    (shiftRun x2Feedback (BitVec.ofNat 31 seed) (n + goldOffset)).getLsbD 0

/-! ### The checksum (spec/43_channel_coding.md R202, R203) -/

/-- The generator g(D) of CRC24C without its D^24 term (R202). -/
def crcGenerator : BitVec 24 := 0xB2B117#24

/-- One bit into the checksum register (R202). -/
def crcStep (r : BitVec 24) (b : Bool) : BitVec 24 :=
  if r.getLsbD 23 ^^ b then (r <<< 1) ^^^ crcGenerator else r <<< 1

/-- The register after elements 0, 1, …, n - 1 of a bit sequence, from 0 (R202). -/
def crcRegister (f : Nat → Bool) : Nat → BitVec 24
  | 0 => 0#24
  | n + 1 => crcStep (crcRegister f n) (f n)

/-- The default `crc`: parity bit p[i] is register bit 23 - i (R202). -/
def crc24c (b : BitVec 32) : BitVec 24 := bitsOf 24 fun i => (crcRegister b.getLsbD 32).getLsbD (23 - i)

/-- The default `crc_check`: `crc(Ch[0..31]) = Ch[32..55]` (R203). -/
def crc24cCheck (ch : BitVec 56) : Bool := crc24c (ch.extractLsb' 0 32) == ch.extractLsb' 32 24

/-! ### The code construction (R204) -/

/-- The least n with 2^n at least x. -/
def ceilLog2 (x : Nat) : Nat := if 2 ^ Nat.log2 x = x then Nat.log2 x else Nat.log2 x + 1

/-- `n1` of TS 38.212 (R204 states it for E > (9/8)·2^(n1 - 1), the block's only case). -/
def polarOrder1 (e : Nat) : Nat := if 8 * e > 9 * 2 ^ (ceilLog2 e - 1) then ceilLog2 e else ceilLog2 e - 1

/-- `n = max(min(n1, n2, n_max), 5)` with `n2 = ceil(log2(8 K))` (R204). -/
def polarOrder (k e nMax : Nat) : Nat := max (min (min (polarOrder1 e) (ceilLog2 (8 * k))) nMax) 5

/-- The default `get_code`: succeeds, with mother length 2^n (R204); the rest of the construction is opaque. -/
def defaultGetCode (k e nMax : Nat) : Option PolarCode :=
  some { motherLength := 2 ^ polarOrder k e nMax, construction := Config.codeConstruction k e nMax }

/-! ### The rate matcher (R208) -/

/-- The sub-block pattern `P` (R208). -/
def subBlockPattern : List Nat :=
  [0, 1, 2, 4, 3, 5, 6, 7, 8, 16, 9, 17, 10, 18, 11, 19] ++
    [12, 20, 13, 21, 14, 22, 15, 23, 24, 25, 26, 28, 27, 29, 30, 31]

/-- The sub-block interleaver `J(n) = P(floor(32·n / N))·(N/32) + (n mod (N/32))` with N = 512 (R208). -/
def subBlockIndex (n : Nat) : Nat :=
  subBlockPattern.getD (32 * n / Config.motherLen) 0 * (Config.motherLen / 32) + n % (Config.motherLen / 32)

/-- The default `rm_tx`: sub-block interleaving, then repetition: `Erm[k] = D[J(k mod N)]` (R208). -/
def defaultRmTx (_ : RateMatchCall) (d : BitVec 512) : BitVec 864 :=
  bitsOf 864 fun k => d.getLsbD (subBlockIndex (k % Config.motherLen))

/-! ### The soft demapper (spec/44_qpsk.md R234) -/

/-- `val(w)`: the number a finite binary32 word denotes, and 0 for an infinity or a NaN (R234). With exponent field e and fraction
f the magnitude is (2^23 + f)·2^(e - 150), or f·2^(1 - 150) when e = 0. -/
def binary32Value (w : Word) : Soft :=
  let e := (w.extractLsb' 23 8).toNat
  let f := (w.extractLsb' 0 23).toNat
  if e = 255 then 0
  else
    let magnitude := (if e = 0 then f else 2 ^ 23 + f) * 2 ^ max e 1
    let signed : Int := if w.getLsbD 31 then -(magnitude : Int) else (magnitude : Int)
    mkRat signed (2 ^ 150)

/-- The default `demod`: `(val(re), val(im))`, no scaling (R234). -/
def defaultDemod (x : Sample) : Soft × Soft := (binary32Value x.re, binary32Value x.im)

/-! ### The machine's parameters -/

/-- The parameters `exec` runs with (spec/00_scope.md R10). -/
def params : Params where
  G := defaultG
  prbs := goldBit
  crc := crc24c
  crcCheck := crc24cCheck
  getCode := defaultGetCode
  polarAlloc := Config.polarAlloc
  polarEncode := Config.polarEncode
  rmTx := defaultRmTx
  rmRx := Config.rmRx
  polarDecode := Config.polarDecode
  demod := defaultDemod
  primInitOk := fun _ => true

end Sys2Proof.Machine
end

