-- ==== Sys2Proof/Machine/Packer.lean ====
section
/-! DEFINITION. The bit packer and fixed-permutation interleaver, and the commands PACK and UNPACK
(spec/40_packer_interleaver.md). -/

namespace Sys2Proof.Machine

/-- The bit of a message at logical index `j` (R132). -/
def logicalBit (lmax : Lmax) (m : Message) (j : Nat) : Bool :=
  if j ≤ 3 then m.sfn4.getLsbD (3 - j)
  else if j ≤ 9 then m.payload.getLsbD (j - 3)
  else if j = 10 then m.hrf
  else if j = 11 then (if lmax = .l64 then m.ssb.getLsbD 5 else m.kssb)
  else if j = 12 then (if lmax = .l64 then m.ssb.getLsbD 4 else false)
  else if j = 13 then (if lmax = .l64 then m.ssb.getLsbD 3 else false)
  else if j = 14 then m.payload.getLsbD 0
  else m.payload.getLsbD (j - 8)

/-- `pack(lmax, msg)`: every logical index puts its bit at its physical position (R133). -/
def pack (G : Fin 32 → Fin 32) (lmax : Lmax) (m : Message) : BitVec 32 :=
  (List.finRange 32).foldl (fun A j => setBit A (G j) (logicalBit lmax m j)) 0#32

/-- The bit at logical index `j` of a vector indexed by physical position: `A[G(j)]` (R16). -/
def atLogical (G : Fin 32 → Fin 32) (A : BitVec 32) (j : Fin 32) : Bool := A.getLsbD (G j)

/-- The logical index that holds payload bit `i` (R132, R134). -/
def payloadIndex (i : Nat) : Fin 32 :=
  if i = 0 then 14 else if i ≤ 6 then Fin.ofNat 32 (i + 3) else Fin.ofNat 32 (i + 8)

/-- `unpack(lmax, A, issb)` (R134), with the fields the vector does not carry filled as R135 says. -/
def unpack (G : Fin 32 → Fin 32) (lmax : Lmax) (A : BitVec 32) (issb : BitVec 6) : Message where
  sfn4 := bitsOf 4 fun b => atLogical G A (Fin.ofNat 32 (3 - b))
  hrf := atLogical G A 10
  kssb := if lmax = .l64 then false else atLogical G A 11
  ssb :=
    if lmax = .l64 then
      bitsOf 6 fun b =>
        if b = 5 then atLogical G A 11 else if b = 4 then atLogical G A 12 else if b = 3 then atLogical G A 13
        else issb.getLsbD b
    else issb
  payload := bitsOf 24 fun i => atLogical G A (payloadIndex i)

/-- Write a recovered message to RES_CTRL and RES_PAYLOAD (spec/30_encoding.md R108). -/
def writeResult (m : Message) (s : State) : State := { s with resCtrl := m.ctrlWord, resPayload := m.payloadWord }

/-- PACK for any parameters (R137). -/
def packCommand (p : Params) (s : State) : Host.Outcome State Fault Refusal :=
  match codecConfig s.cfg with
  | none => .next (raise .nothing .invalidInput .none s)
  | some c => .next (complete { s with packed := pack p.G c.lmax (messageOperand s.msgCtrl s.msgPayload) })

/-- UNPACK for any parameters (R138). -/
def unpackCommand (p : Params) (s : State) : Host.Outcome State Fault Refusal :=
  match codecConfig s.cfg with
  | none => .next (raise .nothing .invalidInput .none s)
  | some c => .next (complete (writeResult (unpack p.G c.lmax s.packed (ssbOperand s.decSsb)) s))

/-- PACK (R137). -/
def execPack (s : State) : Host.Outcome State Fault Refusal := packCommand params s

/-- UNPACK (R138). -/
def execUnpack (s : State) : Host.Outcome State Fault Refusal := unpackCommand params s

end Sys2Proof.Machine
end

