-- ==== Sys2Proof/Machine/Qpsk.lean ====
section
/-! DEFINITION. The QPSK symbol mapper and demapper (spec/44_qpsk.md). -/

namespace Sys2Proof.Machine

/-- The word of a component: +α for bit 0, -α for bit 1, with α the binary32 nearest 1/√2 (R231, R232). -/
def componentWord (b : Bool) : Word := if b then 0xBF3504F3#32 else 0x3F3504F3#32

/-- The constellation `q(b0, b1)` (R231). -/
def qpskPoint (b0 b1 : Bool) : Sample where
  re := componentWord b0
  im := componentWord b1

/-- `qpsk_map(F)`: symbol i carries bits 2i and 2i + 1 (R230). -/
def qpskMap (F : BitVec 864) : Vector Sample 432 :=
  Vector.ofFn fun i : Fin 432 => qpskPoint (F.getLsbD (2 * i)) (F.getLsbD (2 * i + 1))

/-- `qpsk_demap(Y)`: sample i gives soft values 2i and 2i + 1 (R233). -/
def qpskDemap (demod : Sample → Soft × Soft) (Y : Vector Sample 432) : Vector Soft 864 :=
  Vector.ofFn fun n : Fin 864 =>
    let s := demod (Y[n.val / 2]'(by omega))
    if n.val % 2 = 0 then s.1 else s.2

end Sys2Proof.Machine
end

