-- ==== Sys2Proof/Machine/Scrambler.lean ====
section
/-! DEFINITION. The dual-stage PRBS scrambler controller (spec/42_scrambling.md). -/

namespace Sys2Proof.Machine

/-- A cursor over a generator's bit stream (R180). Every use starts from a fresh one (R191). -/
structure Cursor where
  seed : Nat
  pos : Nat
  deriving DecidableEq, Repr

/-- `init(seed)` (R180). -/
def cursorInit (seed : Nat) : Cursor := { seed := seed, pos := 0 }

/-- `advance(state, n)` (R180). -/
def cursorAdvance (c : Cursor) (n : Nat) : Cursor := { c with pos := c.pos + n }

/-- The generator bit under the cursor (R185). -/
def cursorBit (prbs : Nat → Nat → Bool) (c : Cursor) : Bool := prbs c.seed c.pos

/-- `apply(state, X, n)`: the next `n` bits XORed onto `X`, and the cursor moved past them (R180). -/
def cursorApply {n : Nat} (prbs : Nat → Nat → Bool) (c : Cursor) (X : BitVec n) : BitVec n × Cursor :=
  (X ^^^ bitsOf n fun i => prbs c.seed (c.pos + i), cursorAdvance c n)

/-- The stage-1 selector `v = 2·A[G(1)] + A[G(2)]` (R182). -/
def stage1Selector (G : Fin 32 → Fin 32) (A : BitVec 32) : Nat :=
  2 * (A.getLsbD (G 1)).toNat + (A.getLsbD (G 2)).toNat

/-- Whether physical position `p` is in the excluded set X, the positions of logical 1, 2, 10, 11, 12, 13 (R184). -/
def excluded (G : Fin 32 → Fin 32) (p : Nat) : Bool :=
  p == (G 1).val || p == (G 2).val || p == (G 10).val || p == (G 11).val || p == (G 12).val || p == (G 13).val

/-- What stage 1 does at physical position `p`: an excluded bit passes, any other takes the next generator bit (R185). -/
def scr1Position (G : Fin 32 → Fin 32) (prbs : Nat → Nat → Bool) (A : BitVec 32) (acc : BitVec 32 × Cursor) (p : Nat) :
    BitVec 32 × Cursor :=
  if excluded G p then (setBit acc.1 p (A.getLsbD p), acc.2)
  else (setBit acc.1 p (A.getLsbD p ^^ cursorBit prbs acc.2), cursorAdvance acc.2 1)

/-- Where stage 1's cursor starts: `advance(init(nid), M(lmax)·v)` (R183, R185). -/
def scr1Start (G : Fin 32 → Fin 32) (nid : Nat) (lmax : Lmax) (A : BitVec 32) : Cursor :=
  cursorAdvance (cursorInit nid) (lmax.stride * stage1Selector G A)

/-- `scr1(nid, lmax, A)`: positions 0..31 in order (R185). It is also stage-1 descrambling (R187). -/
def scr1 (G : Fin 32 → Fin 32) (prbs : Nat → Nat → Bool) (nid : Nat) (lmax : Lmax) (A : BitVec 32) : BitVec 32 :=
  ((List.range 32).foldl (scr1Position G prbs A) (0#32, scr1Start G nid lmax A)).1

/-- The stage-2 selector `v2 = ssb mod L2(lmax)` (R188). -/
def stage2Selector (lmax : Lmax) (ssb : BitVec 6) : Nat := ssb.toNat % lmax.selectorModulus

/-- Where stage 2's cursor starts: `advance(init(nid), v2·E)` (R189). -/
def scr2Start (nid : Nat) (lmax : Lmax) (ssb : BitVec 6) : Cursor :=
  cursorAdvance (cursorInit nid) (stage2Selector lmax ssb * Config.matchedLen)

/-- `scr2(nid, lmax, ssb, Erm)` (R189). -/
def scr2 (prbs : Nat → Nat → Bool) (nid : Nat) (lmax : Lmax) (ssb : BitVec 6) (erm : BitVec 864) : BitVec 864 :=
  (cursorApply prbs (scr2Start nid lmax ssb) erm).1

/-- `descr2_soft(nid, lmax, issb, Sf)`: the soft value is negated where the generator bit is 1 (R190). -/
def descr2Soft (prbs : Nat → Nat → Bool) (nid : Nat) (lmax : Lmax) (issb : BitVec 6) (sf : Vector Soft 864) :
    Vector Soft 864 :=
  Vector.ofFn fun n : Fin 864 =>
    if cursorBit prbs (cursorAdvance (scr2Start nid lmax issb) n) then -sf[n] else sf[n]

end Sys2Proof.Machine
end

