-- ==== Sys2Proof/Machine/Codec.lean ====
section
/-! DEFINITION. The orchestrator commands NOP, INIT, ENCODE and DECODE (spec/41_codec_commands.md). -/

namespace Sys2Proof.Machine

/-- The two facets of the codec state (spec/10_state.md R40, R51). -/
inductive Facet where
  | enc
  | dec
  deriving DecidableEq, Repr

/-- Whether STATUS says the facet is built (R40). -/
def facetReady (f : Facet) (t : Status) : Bool :=
  match f with
  | .enc => t.encReady
  | .dec => t.decReady

/-- `precheck_codec(f)`: the checks before the first stage, in order, and the configuration where all pass
(spec/60_exceptions.md R282). -/
def precheckCodec (f : Facet) (s : State) : Except ErrorCode CodecConfig :=
  if s.status.ready = false then .error .notReady
  else if facetReady f s.status = false then .error .facetDisabled
  else
    match codecConfig s.cfg with
    | none => .error .invalidInput
    | some c => .ok c

/-! ### NOP -/

/-- NOP (R152). -/
def execNop (s : State) : Host.Outcome State Fault Refusal := .next (complete s)

/-! ### INIT -/

/-- INIT's first writes: the previous codec state is torn down (R153). -/
def tearDown (s : State) : State :=
  { s with
    status := { s.status with ready := false, encReady := false, decReady := false }
    code := none }

/-- Whether every primitive the enabled facets need initialises (R153). -/
def primitivesOk (p : Params) (enE enD : Bool) : Bool :=
  p.primInitOk .common && (!enE || p.primInitOk .encodeFacet) && (!enD || p.primInitOk .decodeFacet)

/-- The codec state INIT builds: CODE and the facets (R153). -/
def buildCodec (c : PolarCode) (enE enD : Bool) (s : State) : State :=
  { s with
    status := { s.status with ready := true, encReady := enE, decReady := enD }
    code := some c }

/-- `get_code(K, E, N_MAX_ORDER)`, the call INIT makes, none where the call fails or N is not 512 (R153, R204). -/
def initCode (p : Params) : Option PolarCode :=
  match p.getCode Config.codedInputLen Config.matchedLen Config.maxOrder with
  | none => none
  | some c => if c.motherLength = Config.motherLen then some c else none

/-- INIT for any parameters (R153). -/
def initCommand (p : Params) (s : State) : Host.Outcome State Fault Refusal :=
  let enE := enEncField s.cfg
  let enD := enDecField s.cfg
  let s0 := tearDown s
  if enE = false ∧ enD = false then .next (raise .nothing .noFacet .init s0)
  else if primitivesOk p enE enD = false then .next (raise .nothing .initFail .init s0)
  else
    match initCode p with
    | none => .next (raise .nothing .initFail .init s0)
    | some c => .next (complete (buildCodec c enE enD s0))

/-- INIT (R153). -/
def execInit (s : State) : Host.Outcome State Fault Refusal := initCommand params s

/-! ### ENCODE -/

/-- ENCODE's stages 1 to 7: the 432 symbols of a message (R154). -/
def encodeSymbols (p : Params) (c : CodecConfig) (code : PolarCode) (m : Message) : Vector Sample 432 :=
  let A := pack p.G c.lmax m
  let B := scr1 p.G p.prbs c.nid c.lmax A
  let C := attachCrc p B
  let erm := channelEncode p code C
  let F := scr2 p.prbs c.nid c.lmax m.ssb erm
  qpskMap F

/-- ENCODE for any parameters (R154). -/
def encodeCommand (p : Params) (s : State) : Host.Outcome State Fault Refusal :=
  match precheckCodec .enc s with
  | .error e => .next (raise .nothing e .none s)
  | .ok c =>
    match s.code with
    | none => .fault .codeAbsent
    | some code =>
      let S := encodeSymbols p c code (messageOperand s.msgCtrl s.msgPayload)
      let v := refShift c.nid
      if mappingOk v = false then .next (raise (.encodeGrid v) .internal .reMap s)
      else .next (complete (reMap v S s))

/-- ENCODE (R154). -/
def execEncode (s : State) : Host.Outcome State Fault Refusal := encodeCommand params s

/-! ### DECODE -/

/-- DECODE's stages 7 down to 1 on the 432 samples read: the message, or the error and its stage (R155). -/
def decodeSamples (p : Params) (c : CodecConfig) (code : PolarCode) (issb : BitVec 6) (Y : Vector Sample 432) :
    Except (ErrorCode × StageCode) Message :=
  let Sf := qpskDemap p.demod Y
  let Sd := descr2Soft p.prbs c.nid c.lmax issb Sf
  let rm := p.rmRx rateMatchCall Sd
  if rm.2 = false then .error (.primitiveFail, .rateMatch)
  else
    let pd := p.polarDecode rm.1 code
    if pd.2 = false then .error (.primitiveFail, .polar)
    else if p.crcCheck pd.1 = false then .error (.decodeReject, .crc)
    else
      let Bh := pd.1.extractLsb' 0 32
      let Ah := scr1 p.G p.prbs c.nid c.lmax Bh
      .ok (unpack p.G c.lmax Ah issb)

/-- DECODE's first write: CRC_OK is cleared (R155, spec/10_state.md R37). -/
def clearCrcOk (s : State) : State := { s with status := { s.status with crcOk := false } }

/-- DECODE's acceptance: the results, CRC_OK and the end of the command (R155). -/
def acceptMessage (m : Message) (s : State) : State :=
  let t := writeResult m s
  complete { t with status := { t.status with crcOk := true } }

/-- DECODE for any parameters (R155). -/
def decodeCommand (p : Params) (s : State) : Host.Outcome State Fault Refusal :=
  let s0 := clearCrcOk s
  match precheckCodec .dec s0 with
  | .error e => .next (raise .nothing e .none s0)
  | .ok c =>
    match s.code with
    | none => .fault .codeAbsent
    | some code =>
      let v := refShift c.nid
      if mappingOk v = false then .next (raise .decodeResult .internal .reMap s0)
      else
        match decodeSamples p c code (ssbOperand s.decSsb) (reDemap v s) with
        | .error e => .next (raise .decodeResult e.1 e.2 s0)
        | .ok m => .next (acceptMessage m s0)

/-- DECODE (R155). -/
def execDecode (s : State) : Host.Outcome State Fault Refusal := decodeCommand params s

end Sys2Proof.Machine
end

