-- ==== Sys2Proof/Machine/Dispatch.lean ====
section
/-! DEFINITION. Each command's meaning (spec/30_encoding.md R101). -/

namespace Sys2Proof.Machine

def exec (i : Instr) (s : State) : Host.Outcome State Fault Refusal :=
  match i with
  | .nop => Sys2Proof.Machine.execNop s
  | .init => Sys2Proof.Machine.execInit s
  | .encode => Sys2Proof.Machine.execEncode s
  | .decode => Sys2Proof.Machine.execDecode s
  | .pack => Sys2Proof.Machine.execPack s
  | .unpack => Sys2Proof.Machine.execUnpack s

end Sys2Proof.Machine
end

