-- ==== Sys2Proof/Machine/Sequencer.lean ====
section
/-! DEFINITION. What a host access or a platform reset does (spec/20_memory.md R74 to R81), and how a write of CMD runs a command
(spec/30_encoding.md R100, R102). -/

namespace Sys2Proof.Machine

/-- The offset of CMD (spec/10_state.md R32). -/
def cmdOffset : Nat := 0x000

/-- The offset of STATUS (spec/10_state.md R32). -/
def statusOffset : Nat := 0x004

/-- A write of CMD with a reserved OP: only STATUS.ERR and STATUS.STAGE change (R102, spec/60_exceptions.md R290). -/
def illegalCommand (s : State) : State := raise .nothing .illegalCmd .none s

/-- A host write of the word `w` to CMD: BUSY becomes 1 and the command OP selects runs to its end (R100, R36). -/
def startCommand (w : Word) (s : State) : Host.Outcome State Fault Refusal :=
  match decode w with
  | .ok i => exec i (beginCommand s)
  | .error _ => .next (illegalCommand (beginCommand s))

/-- The accesses the block serves: 32 bits wide at a multiple of 4 (spec/20_memory.md R78). -/
def served (w : AccessWidth) (off : Nat) : Bool := w == .w32 && decide (off % 4 = 0)

/-- A host read: a served one returns the word, any other returns 0 (R74, R78). It changes nothing else (R80). -/
def hostRead (w : AccessWidth) (off : Nat) (s : State) : State :=
  if served w off then { s with readData := hostReadWord s off } else { s with readData := 0#32 }

/-- A host write: one to CMD runs a command, another stores, and one the block does not serve does nothing (R74, R78). -/
def hostWrite (w : AccessWidth) (off : Nat) (data : Word) (s : State) : Host.Outcome State Fault Refusal :=
  if served w off then
    if off = cmdOffset then startCommand data s else .next (hostWriteWord s off data)
  else .next s

/-- One event from outside the block. An access that is not in the aperture stops the model (log 13); while BUSY = 1 only a read of
STATUS is a move of the host (spec/70_reset_and_hazards.md R330, spec/93_implementation_defined.md U6; log 3). -/
def serveEvent (e : HostEvent) (s : State) : Host.Outcome State Fault Refusal :=
  match e with
  | .reset => .next (platformReset s)
  | .read w off =>
    if Config.apertureSize ≤ off then .fault (.outsideAperture off)
    else if s.status.busy = true ∧ ¬(w = .w32 ∧ off = statusOffset) then .refused .hostAccessWhileBusy
    else .next (hostRead w off s)
  | .write w off data =>
    if Config.apertureSize ≤ off then .fault (.outsideAperture off)
    else if s.status.busy = true then .refused .hostAccessWhileBusy
    else hostWrite w off data s

/-- The next event of the host or the platform, in program order (R81). With none to come the block stays as it is: it runs only
when CMD is written (spec/10_state.md R31). -/
def nextEvent (s : State) : Host.Outcome State Fault Refusal :=
  match s.pending with
  | [] => .next s
  | e :: rest => serveEvent e { s with pending := rest }

/-- The offset a bus address names in the aperture at `base`, none outside it (spec/20_memory.md R75). Log 15. -/
def apertureOffset (base addr : Nat) : Option Nat :=
  if base ≤ addr ∧ addr < base + Config.apertureSize then some (addr - base) else none

/-- A 32-bit write on the platform's bus, as the block sees it: an event if the address is in the aperture at BASE (R75). -/
def busWrite (addr : Nat) (data : Word) : Option HostEvent :=
  (apertureOffset Config.base addr).map fun off => .write .w32 off data

/-- A 32-bit read on the platform's bus, as the block sees it (R75). -/
def busRead (addr : Nat) : Option HostEvent := (apertureOffset Config.base addr).map fun off => .read .w32 off

/-! ### Host programs (spec/30_encoding.md R111) -/

/-- `WR CMD, w`. -/
def wrCmd (w : Word) : HostEvent := .write .w32 cmdOffset w

/-- `WRG i, re, im`: the two writes of grid element `i`. -/
def wrGrid (i : Nat) (x : Sample) : List HostEvent :=
  [.write .w32 (elementOffset i) x.re, .write .w32 (elementOffset i + 4) x.im]

/-- `RDG i`: the two reads of grid element `i`. -/
def rdGrid (i : Nat) : List HostEvent := [.read .w32 (elementOffset i), .read .w32 (elementOffset i + 4)]

/-- The state in which the host's next access writes the command word of a table row's bits to CMD, and the block is ready for it.
Log 1. -/
def withCommandWord (s : State) (nbits w : Nat) : State :=
  { s with
    status := { s.status with busy := false }
    pending := wrCmd (BitVec.ofNat 32 (w % 2 ^ nbits)) :: s.pending }

end Sys2Proof.Machine
end

