-- ==== Sys2Proof/Machine/Step.lean ====
section
/-! DEFINITION. One step of the block: the next host access or platform reset takes effect, whole (spec/00_scope.md R18,
spec/20_memory.md R81). -/

namespace Sys2Proof.Machine

/-- One step. -/
def step (s : State) : Host.Outcome State Fault Refusal := nextEvent s

/-- The state whose next step runs the command of a table row's `nbits` bits `w`: the host's next access writes it to CMD. -/
def State.withFetchWord (s : State) (nbits w : Nat) : State := withCommandWord s nbits w

end Sys2Proof.Machine
end

