-- ==== Sys2Proof/Safety.lean ====
section
/-! DEFINITION. The invariant of the block, and what a host must do for the model to answer every step. -/

namespace Sys2Proof.Machine

/-- What holds of the block between any two steps, in every run from reset. -/
structure Inv (s : State) : Prop where
  /-- The grid's storage is in its canonical form. -/
  grid_wf : s.grid.wf = true
  /-- CFG's reserved bits read 0 (spec/10_state.md R41 to R43). -/
  cfg_reserved : s.cfg &&& ~~~cfgMask = 0#32
  /-- MSG_CTRL's reserved bits read 0 (R44). -/
  msgCtrl_reserved : s.msgCtrl &&& ~~~ctrlMask = 0#32
  /-- MSG_PAYLOAD's reserved bits read 0 (R45). -/
  msgPayload_reserved : s.msgPayload &&& ~~~payloadMask = 0#32
  /-- DEC_SSB's reserved bits read 0 (R46). -/
  decSsb_reserved : s.decSsb &&& ~~~decSsbMask = 0#32
  /-- RES_CTRL's reserved bits read 0 (R47, spec/60_exceptions.md R283). -/
  resCtrl_reserved : s.resCtrl &&& ~~~ctrlMask = 0#32
  /-- RES_PAYLOAD's reserved bits read 0 (R48, R283). -/
  resPayload_reserved : s.resPayload &&& ~~~payloadMask = 0#32
  /-- BUSY reads 0 between steps (R36). -/
  not_busy : s.status.busy = false
  /-- READY is 1 exactly while CODE is present (R35, R51, spec/41_codec_commands.md R153). -/
  ready_code : s.status.ready = s.code.isSome
  /-- CODE has the mother length INIT checks (R153). -/
  code_length : ∀ c, s.code = some c → c.motherLength = Config.motherLen
  /-- A facet is built exactly while the codec state is ready (R35, R40, R153). -/
  ready_facet : s.status.ready = (s.status.encReady || s.status.decReady)
  /-- ERR and STAGE hold a pair some command can end with (spec/60_exceptions.md R292). -/
  status_legal : s.status.legal = true

/-- A platform reset, or an access at an offset the aperture holds (spec/20_memory.md R70). -/
def HostEvent.inAperture : HostEvent → Bool
  | .read _ off => decide (off < Config.apertureSize)
  | .write _ off _ => decide (off < Config.apertureSize)
  | .reset => true

/-! ### The named premises of the noiseless round trip (spec/41_codec_commands.md R158). They are assumed by name, never part of a
step (spec/43_channel_coding.md R211). -/

/-- A soft value says the bit: positive for 0, negative for 1 (spec/00_scope.md R15). -/
def SoftSays (b : Bool) (x : Soft) : Prop := if b then x < 0 else 0 < x

/-- Premise P1: the check accepts every attached checksum (R158, spec/43_channel_coding.md R203). -/
def ChecksumAccepts (p : Params) : Prop := ∀ B : BitVec 32, p.crcCheck (attachCrc p B) = true

/-- Premise P2: the demapper keeps the sign of every constellation point (R158, spec/44_qpsk.md R235). -/
def DemapKeepsSigns (p : Params) : Prop :=
  ∀ b0 b1 : Bool, SoftSays b0 (p.demod (qpskPoint b0 b1)).1 ∧ SoftSays b1 (p.demod (qpskPoint b0 b1)).2

/-- Premise P3, noiseless invertibility (R158, spec/43_channel_coding.md R211). -/
def CodingNoiseless (p : Params) (code : PolarCode) : Prop :=
  ∀ (C : BitVec 56) (S : Vector Soft 864), (∀ n : Fin 864, SoftSays ((channelEncode p code C).getLsbD n) S[n]) →
    (p.rmRx rateMatchCall S).2 = true ∧ p.polarDecode (p.rmRx rateMatchCall S).1 code = (C, true)

end Sys2Proof.Machine
end

