-- ==== Sys2Proof/Certificates/Slice0/Obligations.lean ====
section
/-! DEFINITION. The statements about the model. Each docstring names the rules of spec/ it formalises; where a statement rests on a
default the spec supplies from general knowledge, or on a choice of the model, it names the log entry. -/

open Sys2Proof Sys2Proof.Machine

/-! ### Encoding (spec/30_encoding.md) -/

/-- R101: words written out from the opcode map, with the ignored bits set in some, decode as the map says; 0x06 and 0xFF are
reserved (R102). -/
def Obligations.CommandWordsDecodeAsTabled : Prop :=
  decode 0x00000000#32 = .ok .nop ∧ decode 0x00000001#32 = .ok .init ∧ decode 0x00000002#32 = .ok .encode ∧
  decode 0x00000003#32 = .ok .decode ∧ decode 0x00000004#32 = .ok .pack ∧ decode 0x00000005#32 = .ok .unpack ∧
  decode 0x00000100#32 = .ok .nop ∧ decode 0xFFFFFF05#32 = .ok .unpack ∧
  decode 0x00000006#32 = .error (.reservedOpcode 0x06#8) ∧ decode 0x000000FF#32 = .error (.reservedOpcode 0xFF#8)

/-- R100: a word of a well-formed command decodes to it whatever its ignored bits; a word that decodes is the command's, its upper
24 bits the ignored ones; the words that decode are those whose OP is at most 5, and any other is refused with its OP. -/
def Obligations.DecodeAndEncodeAgree : Prop :=
  (∀ (i : Instr) (hi : BitVec 24), i.wellFormed = true → decode (encodeWith hi i) = .ok i) ∧
  (∀ (w : Word) (i : Instr), decode w = .ok i → w = encodeWith (w.extractLsb' 8 24) i) ∧
  (∀ w : Word, (∃ i, decode w = .ok i) ↔ commandWordWellFormed w = true) ∧
  (∀ w : Word, 6 ≤ (opField w).toNat → decode w = .error (.reservedOpcode (opField w)))

/-! ### Steps and host accesses (spec/20_memory.md, spec/10_state.md) -/

/-- R100, R36: when the host's next access writes a word to CMD that decodes to a command, the step is `exec` of that command, in
the state with that access taken and BUSY = 1. -/
def Obligations.StepRunsDecodedCommand : Prop :=
  ∀ (s : State) (w : Word) (rest : List HostEvent) (i : Instr),
    s.pending = .write .w32 0 w :: rest → s.status.busy = false → decode w = .ok i → i.wellFormed = true →
    step s = exec i { s with pending := rest, status := { s.status with busy := true } }

/-- R290, R102: a write of CMD with OP 0x06 to 0xFF changes ERR and STAGE of STATUS and nothing else; and the rule's example. -/
def Obligations.ReservedOpcodeEndsIllegal : Prop :=
  (∀ (s : State) (w : Word) (rest : List HostEvent),
    s.pending = .write .w32 0 w :: rest → s.status.busy = false → 6 ≤ (opField w).toNat →
    step s = .next { s with
      pending := rest
      status := { s.status with err := .illegalCmd, stage := .none } }) ∧
  ∀ (s : State) (rest : List HostEvent),
    s.pending = .write .w32 0 0x000000FF#32 :: rest → s.status = ⟨true, false, false, .ok, .none, true, false⟩ →
    s.status.word = 0x00001001#32 ∧ ∃ t, step s = .next t ∧ t.status.word = 0x00001081#32

/-- R74 (reads), R33, R73, R76, R80: what each aligned 32-bit host read returns, and that it changes nothing else. -/
def Obligations.HostReadReturnsRegister : Prop :=
  ∀ (s : State) (off : Nat) (rest : List HostEvent),
    s.pending = .read .w32 off :: rest → s.status.busy = false → off % 4 = 0 → off < 0x4000 →
    ∃ v : Word, step s = .next { s with pending := rest, readData := v } ∧
      (off = 0x000 → v = 0#32) ∧ (off = 0x004 → v = s.status.word) ∧ (off = 0x008 → v = s.cfg) ∧
      (off = 0x00C → v = s.msgCtrl) ∧ (off = 0x010 → v = s.msgPayload) ∧ (off = 0x014 → v = s.decSsb) ∧
      (off = 0x018 → v = s.resCtrl) ∧ (off = 0x01C → v = s.resPayload) ∧ (off = 0x020 → v = s.packed) ∧
      (∀ i < 960, off = 0x1000 + 8 * i → v = (memRead s i).re) ∧
      (∀ i < 960, off = 0x1000 + 8 * i + 4 → v = (memRead s i).im) ∧
      (0x024 ≤ off → off < 0x1000 → v = 0#32) ∧ (0x2E00 ≤ off → v = 0#32)

/-- R74 (writes), R41 to R46, R49, R73, R76: what each aligned 32-bit host write outside CMD stores: the defined fields of a writable
register, the whole word at a grid offset, every other grid byte as before, and nothing at a read-only register or a reserved offset;
every other field of the state stays. -/
def Obligations.HostWriteStoresDefinedFields : Prop :=
  ∀ (s : State) (off : Nat) (w : Word) (rest : List HostEvent),
    s.pending = .write .w32 off w :: rest → s.status.busy = false →
    (off = 0x008 → step s = .next { s with pending := rest, cfg := w &&& 0x030303FF#32 }) ∧
    (off = 0x00C → step s = .next { s with pending := rest, msgCtrl := w &&& 0x00003F3F#32 }) ∧
    (off = 0x010 → step s = .next { s with pending := rest, msgPayload := w &&& 0x00FFFFFF#32 }) ∧
    (off = 0x014 → step s = .next { s with pending := rest, decSsb := w &&& 0x0000003F#32 }) ∧
    (off = 0x020 → step s = .next { s with pending := rest, packed := w }) ∧
    (off = 0x004 ∨ off = 0x018 ∨ off = 0x01C → step s = .next { s with pending := rest }) ∧
    (off % 4 = 0 → (0x024 ≤ off ∧ off < 0x1000) ∨ (0x2E00 ≤ off ∧ off < 0x4000) →
      step s = .next { s with pending := rest }) ∧
    (off % 4 = 0 → 0x1000 ≤ off → off < 0x2E00 →
      ∃ t, step s = .next t ∧ t = { s with pending := rest, grid := t.grid } ∧ hostReadWord t off = w ∧
        ∀ a, (a < off ∨ off + 4 ≤ a) → gridByte t a = gridByte s a)

/-- R73, R79: the two writes of a grid element, taken one after the other, leave the element holding the sample, every byte outside
its eight as before, and every other field of the state as before. -/
def Obligations.GridElementWrittenWhole : Prop :=
  ∀ (s : State) (i : Nat) (x : Sample) (rest : List HostEvent),
    i < 960 → s.status.busy = false →
    s.pending = .write .w32 (0x1000 + 8 * i) x.re :: .write .w32 (0x1000 + 8 * i + 4) x.im :: rest →
    ∃ t, Host.Core.run Sys2Proof.core 2 s = .next t ∧ t = { s with pending := rest, grid := t.grid } ∧ memRead t i = x ∧
      (∀ j, j ≠ i → memRead t j = memRead s j) ∧
      ∀ a, (a < 0x1000 + 8 * i ∨ 0x1000 + 8 * i + 8 ≤ a) → gridByte t a = gridByte s a

/-- R78: a host access that is not 32 bits wide at a multiple of 4 is ignored: a write changes no state, a read returns 0. -/
def Obligations.UnservedAccessIgnored : Prop :=
  ∀ (s : State) (width : AccessWidth) (off : Nat) (rest : List HostEvent),
    off < 0x4000 → s.status.busy = false → (width ≠ .w32 ∨ off % 4 ≠ 0) →
    (s.pending = .read width off :: rest → step s = .next { s with pending := rest, readData := 0#32 }) ∧
    (∀ w : Word, s.pending = .write width off w :: rest → step s = .next { s with pending := rest })

/-- R31: with no host access to come, the block stays as it is. The empty list is the model's own (log 1). -/
def Obligations.IdleBlockKeepsItsState : Prop :=
  ∀ s : State, s.pending = [] → step s = .next s

/-- R320, R321: a platform reset leaves every register 0, CODE absent, no facet built, and every grid byte a value drawn for this
reset. What the host has still to do and has read is not the block's (log 9, log 11). -/
def Obligations.PlatformResetClearsBlock : Prop :=
  ∀ (s : State) (rest : List HostEvent), s.pending = .reset :: rest →
    ∃ t, step s = .next t ∧ t.status = State.reset.status ∧ t.status.word = 0#32 ∧ t.cfg = 0#32 ∧ t.msgCtrl = 0#32 ∧
      t.msgPayload = 0#32 ∧ t.decSsb = 0#32 ∧ t.resCtrl = 0#32 ∧ t.resPayload = 0#32 ∧ t.packed = 0#32 ∧ t.code = none ∧
      hostReadWord t 0x000 = 0#32 ∧ t.pending = rest ∧ t.readData = s.readData ∧ t.freeIndex = s.freeIndex ∧
      ∀ a, gridByte t a = Config.gridByteAtReset (s.resetCount + 1) a

/-- The model's stops, each said exactly (log 3, log 13, log 14): the fault for an offset of 0x4000 or more; the fault for an ENCODE or
DECODE past its checks with no CODE, which no run reaches; the refusal, while BUSY = 1, of every access in the aperture but a 32-bit
read of STATUS. -/
def Obligations.EveryStopIsNamed : Prop :=
  (∀ s off, step s = .fault (.outsideAperture off) ↔
    0x4000 ≤ off ∧ ∃ w rest, s.pending = .read w off :: rest ∨ ∃ d, s.pending = .write w off d :: rest) ∧
  (∀ s, step s = .fault .codeAbsent ↔
    s.status.busy = false ∧ s.status.ready = true ∧ s.code = none ∧ codecConfig s.cfg ≠ none ∧
      ∃ w rest, s.pending = .write .w32 0 w :: rest ∧
        (decode w = .ok .encode ∧ s.status.encReady = true ∨ decode w = .ok .decode ∧ s.status.decReady = true)) ∧
  ∀ s r, step s = .refused r ↔
    r = .hostAccessWhileBusy ∧ s.status.busy = true ∧
      ∃ w off rest, off < 0x4000 ∧
        (s.pending = .read w off :: rest ∧ ¬(w = .w32 ∧ off = 0x004) ∨ ∃ d, s.pending = .write w off d :: rest)

/-- R75: a bus address in the aperture names its offset from BASE, and BASE is a multiple of 0x4000. The value of BASE is free
(log 15). -/
def Obligations.BusAddressNamesOffset : Prop :=
  Config.base % 0x4000 = 0 ∧
  (∀ (off : Nat) (w : Word), off < 0x4000 →
    busWrite (Config.base + off) w = some (.write .w32 off w) ∧ busRead (Config.base + off) = some (.read .w32 off)) ∧
  ∀ (addr : Nat) (w : Word), addr < Config.base ∨ Config.base + 0x4000 ≤ addr → busWrite addr w = none ∧ busRead addr = none

/-! ### Reset, invariant, whole-machine rules -/

/-- R56: every register reads 0 after reset, CODE is absent and no facet is built. -/
def Obligations.RegistersReadZeroAfterReset : Prop :=
  (∀ off ∈ [0x000, 0x004, 0x008, 0x00C, 0x010, 0x014, 0x018, 0x01C, 0x020], hostReadWord State.reset off = 0#32) ∧
  State.reset.code = none ∧ State.reset.status.encReady = false ∧ State.reset.status.decReady = false

/-- The invariant of Sys2Proof/Safety.lean holds after reset. -/
def Obligations.InvariantAfterReset : Prop := Inv State.reset

/-- Every step keeps the invariant: reserved bits read 0 (R41 to R48), BUSY is 0 between steps (R36), READY, the facets and CODE go
together (R35, R40, R51, R153), ERR and STAGE hold a pair R292 allows, and the grid keeps its canonical form. -/
def Obligations.StepKeepsInvariant : Prop :=
  ∀ s t : State, Inv s → step s = .next t → Inv t

/-- W2, R280: the block has no crash state. A host that addresses the aperture gets an answer from every step, for any number of
steps, and the invariant holds all along; after as many steps as there are events, all have been served. -/
def Obligations.AddressedHostIsAlwaysAnswered : Prop :=
  ∀ (n : Nat) (s : State), Inv s → (∀ e ∈ s.pending, e.inAperture = true) →
    ∃ t, Host.Core.run Sys2Proof.core n s = .next t ∧ Inv t ∧ t.pending = s.pending.drop n

/-- R35: READY goes from 0 to 1 only by a write of CMD that runs INIT with an enabled facet; a failed INIT and a reset leave it 0;
while it is 0, ENCODE and DECODE end with NOT_READY. -/
def Obligations.ReadySetOnlyByInit : Prop :=
  (∀ s t : State, step s = .next t → s.status.ready = false → t.status.ready = true →
    ∃ w rest, s.pending = .write .w32 0 w :: rest ∧ decode w = .ok .init ∧ t.status.err = .ok ∧
      (enEncField s.cfg || enDecField s.cfg) = true) ∧
  (∀ s t : State, exec .init s = .next t → t.status.err ≠ .ok → t.status.ready = false) ∧
  (∀ s : State, (platformReset s).status.ready = false) ∧
  (∀ s : State, s.status.ready = false → ∃ t u, exec .encode s = .next t ∧ t.status.err = .notReady ∧
    exec .decode s = .next u ∧ u.status.err = .notReady)

/-- R110, R87, R37, R40, R47, R49: what each command leaves alone. Every command leaves the host's registers; only DECODE writes CRC_OK;
only INIT writes READY, ENC_READY, DEC_READY and CODE; only DECODE and UNPACK write the results; only PACK writes PACKED; only ENCODE
writes the grid; every command ends with BUSY = 0. -/
def Obligations.CommandsWriteOnlyTheirRegisters : Prop :=
  ∀ (i : Instr) (s t : State), exec i s = .next t →
    t.cfg = s.cfg ∧ t.msgCtrl = s.msgCtrl ∧ t.msgPayload = s.msgPayload ∧ t.decSsb = s.decSsb ∧ t.pending = s.pending ∧
    t.readData = s.readData ∧ t.resetCount = s.resetCount ∧ t.status.busy = false ∧
    (i ≠ .decode → t.status.crcOk = s.status.crcOk ∧ t.freeIndex = s.freeIndex) ∧
    (i ≠ .init → t.status.ready = s.status.ready ∧ t.status.encReady = s.status.encReady ∧
      t.status.decReady = s.status.decReady ∧ t.code = s.code) ∧
    (i ≠ .decode → i ≠ .unpack → t.resCtrl = s.resCtrl ∧ t.resPayload = s.resPayload) ∧
    (i ≠ .pack → t.packed = s.packed) ∧
    (i ≠ .encode → ∀ a, gridByte t a = gridByte s a)

/-- R292: the errors, with their stages, each command can end with. -/
def Obligations.ErrorsOfEachCommand : Prop :=
  ∀ (i : Instr) (s t : State), exec i s = .next t →
    (t.status.err, t.status.stage) ∈
      (match i with
      | .nop => [(ErrorCode.ok, StageCode.none)]
      | .init => [(.ok, .none), (.noFacet, .init), (.initFail, .init)]
      | .encode => [(.ok, .none), (.notReady, .none), (.facetDisabled, .none), (.invalidInput, .none), (.internal, .reMap)]
      | .decode =>
        [(.ok, .none), (.notReady, .none), (.facetDisabled, .none), (.invalidInput, .none), (.internal, .reMap),
          (.primitiveFail, .rateMatch), (.primitiveFail, .polar), (.decodeReject, .crc)]
      | .pack => [(.ok, .none), (.invalidInput, .none)]
      | .unpack => [(.ok, .none), (.invalidInput, .none)])

/-- R291, R256: INTERNAL is raised by no command, since both counts are right for every N_id. -/
def Obligations.InternalNeverRaised : Prop :=
  (∀ nid : Nat, (pbchRE (refShift nid)).length = 432 ∧ (dmrsRE (refShift nid)).length = 144) ∧
  ∀ (i : Instr) (s t : State), exec i s = .next t → t.status.err ≠ .internal

/-- R109: the bits of the STATUS word, and its example; with the number of every error (R281) and of every stage (R104). -/
def Obligations.StatusWordLayout : Prop :=
  (∀ t : Status, t.word.getLsbD 0 = t.ready ∧ t.word.getLsbD 1 = t.busy ∧ t.word.getLsbD 2 = t.crcOk ∧
    t.word.getLsbD 3 = false ∧ t.word.extractLsb' 4 4 = t.err.code ∧ t.word.extractLsb' 8 4 = t.stage.code ∧
    t.word.getLsbD 12 = t.encReady ∧ t.word.getLsbD 13 = t.decReady ∧ t.word.extractLsb' 14 18 = 0#18) ∧
  (∀ t : Status, t.ready = true → t.busy = false → t.crcOk = true → t.err = .ok → t.stage = .none → t.encReady = true →
    t.decReady = true → t.word = 0x00003005#32) ∧
  (ErrorCode.ok.code = 0#4 ∧ ErrorCode.invalidInput.code = 1#4 ∧ ErrorCode.noFacet.code = 2#4 ∧
    ErrorCode.initFail.code = 3#4 ∧ ErrorCode.notReady.code = 4#4 ∧ ErrorCode.facetDisabled.code = 5#4 ∧
    ErrorCode.decodeReject.code = 6#4 ∧ ErrorCode.primitiveFail.code = 7#4 ∧ ErrorCode.illegalCmd.code = 8#4 ∧
    ErrorCode.internal.code = 9#4) ∧
  (StageCode.none.code = 0#4 ∧ StageCode.pack.code = 1#4 ∧ StageCode.scramble1.code = 2#4 ∧ StageCode.crc.code = 3#4 ∧
    StageCode.polar.code = 4#4 ∧ StageCode.rateMatch.code = 5#4 ∧ StageCode.scramble2.code = 6#4 ∧
    StageCode.qpsk.code = 7#4 ∧ StageCode.reMap.code = 8#4 ∧ StageCode.init.code = 9#4)

/-! ### NOP and INIT (spec/41_codec_commands.md R152, R153) -/

/-- R152: NOP writes ERR = OK and STAGE = 0 and nothing else, BUSY ending with the command (R36); any CMD word whose low byte is 0
is a NOP; and the rule's example. -/
def Obligations.NopClearsError : Prop :=
  (∀ s : State, exec .nop s = .next { s with status := { s.status with err := .ok, stage := .none, busy := false } }) ∧
  (∀ w : Word, w.extractLsb' 0 8 = 0x00#8 → decode w = .ok .nop) ∧
  ∀ s : State, s.status = ⟨true, false, false, .illegalCmd, .none, true, false⟩ →
    s.status.word = 0x00001081#32 ∧ ∃ t, exec .nop s = .next t ∧ t.status.word = 0x00001001#32

/-- R153 with the default `prim_init_ok` and `get_code` (log 5): INIT with an enabled facet succeeds and builds CODE and the enabled
facets, whatever the state was before; nothing else changes. -/
def Obligations.InitBuildsEnabledFacets : Prop :=
  ∀ s : State, (enEncField s.cfg || enDecField s.cfg) = true →
    ∃ c : PolarCode, c.motherLength = 512 ∧
      exec .init s = .next { s with
        status := { s.status with
          ready := true
          encReady := enEncField s.cfg
          decReady := enDecField s.cfg
          err := .ok
          stage := .none
          busy := false }
        code := some c }

/-- R287, R153, for any parameters: the outcome of INIT in each case, in the order NO_FACET (2), INIT_FAIL (3), success; after an error
the previous codec state is gone and nothing else changes; no other command and no reserved OP ends with either error; and the rule's
example. -/
def Obligations.InitOutcomes : Prop :=
  (ErrorCode.noFacet.code = 2#4 ∧ ErrorCode.initFail.code = 3#4 ∧ StageCode.init.code = 9#4) ∧
  (∀ (i : Instr) (s t : State), i ≠ .init → exec i s = .next t → t.status.err ≠ .noFacet ∧ t.status.err ≠ .initFail) ∧
  (∀ (w : Word) (op : BitVec 8) (s t : State), decode w = .error (.reservedOpcode op) → startCommand w s = .next t →
    t.status.err ≠ .noFacet ∧ t.status.err ≠ .initFail) ∧
  ∀ (p : Params) (s : State),
    (enEncField s.cfg = false → enDecField s.cfg = false →
      initCommand p s = .next { s with
        status := { s.status with
          ready := false, encReady := false, decReady := false, err := .noFacet, stage := .init, busy := false }
        code := none }) ∧
    ((enEncField s.cfg || enDecField s.cfg) = true →
      (p.primInitOk .common = false ∨ (enEncField s.cfg = true ∧ p.primInitOk .encodeFacet = false) ∨
        (enDecField s.cfg = true ∧ p.primInitOk .decodeFacet = false) ∨ p.getCode 56 864 9 = none ∨
        ∃ c, p.getCode 56 864 9 = some c ∧ c.motherLength ≠ 512) →
      initCommand p s = .next { s with
        status := { s.status with
          ready := false, encReady := false, decReady := false, err := .initFail, stage := .init, busy := false }
        code := none }) ∧
    (∀ c, (enEncField s.cfg || enDecField s.cfg) = true → p.primInitOk .common = true →
      (enEncField s.cfg = true → p.primInitOk .encodeFacet = true) →
      (enDecField s.cfg = true → p.primInitOk .decodeFacet = true) →
      p.getCode 56 864 9 = some c → c.motherLength = 512 →
      initCommand p s = .next { s with
        status := { s.status with
          ready := true
          encReady := enEncField s.cfg
          decReady := enDecField s.cfg
          err := .ok
          stage := .none
          busy := false }
        code := some c }) ∧
    (s.cfg = 0#32 → s.status.crcOk = false → ∃ t, initCommand p s = .next t ∧ t.status.word = 0x00000920#32)

/-- R323 steps 1 to 3: writing CFG with an enable set and then INIT to CMD makes the block ready, from any state in which the host
may access it; ERR is OK and the enabled facets are built (default primitives, log 5). -/
def Obligations.ConfigureThenInitMakesReady : Prop :=
  ∀ (s : State) (w : Word) (rest : List HostEvent),
    s.status.busy = false → s.pending = .write .w32 0x008 w :: .write .w32 0 0x00000001#32 :: rest →
    (w.getLsbD 24 || w.getLsbD 25) = true →
    ∃ t, Host.Core.run Sys2Proof.core 2 s = .next t ∧ t.status.ready = true ∧ t.status.err = .ok ∧ t.status.stage = .none ∧
      t.status.encReady = w.getLsbD 24 ∧ t.status.decReady = w.getLsbD 25 ∧ t.status.busy = false ∧ t.code.isSome = true ∧
      t.pending = rest ∧ t.cfg = w &&& 0x030303FF#32 ∧ t.grid = s.grid

/-! ### The checks (spec/60_exceptions.md) -/

/-- R284: ENCODE and DECODE while READY = 0 end with NOT_READY at stage 0; nothing else changes but DECODE's clearing of CRC_OK; the
first ENCODE after reset leaves STATUS 0x40. -/
def Obligations.NotReadyEndsCodecCommands : Prop :=
  (∀ s : State, s.status.ready = false →
    exec .encode s = .next { s with status := { s.status with err := .notReady, stage := .none, busy := false } } ∧
    exec .decode s = .next { s with
      status := { s.status with crcOk := false, err := .notReady, stage := .none, busy := false } }) ∧
  ∃ t, exec .encode State.reset = .next t ∧ t.status.word = 0x00000040#32

/-- R285: ENCODE while READY = 1 and ENC_READY = 0, and DECODE while READY = 1 and DEC_READY = 0, end with FACET_DISABLED at stage 0;
nothing else changes but DECODE's clearing of CRC_OK; and the rule's example, with only the encode facet built. -/
def Obligations.MissingFacetEndsCodecCommands : Prop :=
  (∀ s : State, s.status.ready = true → s.status.encReady = false →
    exec .encode s = .next { s with status := { s.status with err := .facetDisabled, stage := .none, busy := false } }) ∧
  (∀ s : State, s.status.ready = true → s.status.decReady = false →
    exec .decode s = .next { s with
      status := { s.status with crcOk := false, err := .facetDisabled, stage := .none, busy := false } }) ∧
  ∀ s : State, s.status = ⟨true, false, false, .ok, .none, true, false⟩ →
    ∃ t, exec .decode s = .next t ∧ t.status.word = 0x00001051#32

/-- R286, R150: with CFG.NID above 1007 or CFG.LMAX = 3, ENCODE and DECODE (ready, with their facet), PACK and UNPACK end with
INVALID_INPUT at stage 0 and no output is written; DECODE's CRC_OK is 0. With any other CFG no command ends so, whatever the message
registers hold; and the rule's example. -/
def Obligations.InvalidInputProducesNoOutput : Prop :=
  (∀ s : State, (1007 < nidField s.cfg ∨ lmaxField s.cfg = 3#2) →
    (s.status.ready = true → s.status.encReady = true →
      exec .encode s = .next { s with status := { s.status with err := .invalidInput, stage := .none, busy := false } }) ∧
    (s.status.ready = true → s.status.decReady = true →
      exec .decode s = .next { s with
        status := { s.status with crcOk := false, err := .invalidInput, stage := .none, busy := false } }) ∧
    exec .pack s = .next { s with status := { s.status with err := .invalidInput, stage := .none, busy := false } } ∧
    exec .unpack s = .next { s with status := { s.status with err := .invalidInput, stage := .none, busy := false } }) ∧
  (∀ (i : Instr) (s t : State), nidField s.cfg ≤ 1007 → lmaxField s.cfg ≠ 3#2 → exec i s = .next t →
    t.status.err ≠ .invalidInput) ∧
  ∀ s : State, s.status = ⟨true, false, false, .ok, .none, true, false⟩ → s.cfg = 0x010003F0#32 →
    ∃ t, exec .encode s = .next t ∧ t.status.word = 0x00001011#32

/-! ### ENCODE (spec/41_codec_commands.md R154) -/

/-- R154, R257, R87: ENCODE, ready, with its facet, a legal configuration and CODE, completes. Element n of PBCH_RE(N_id mod 4) holds
the QPSK point of bits 2n and 2n + 1 of the rate-matched vector XORed with the stage-2 generator bits; every byte outside those 432
elements is as before; nothing else changes but ERR and STAGE. -/
def Obligations.EncodeWritesItsSymbols : Prop :=
  ∀ (s : State) (c : CodecConfig) (code : PolarCode),
    s.status.ready = true → s.status.encReady = true → codecConfig s.cfg = some c → s.code = some code →
    let m := messageOperand s.msgCtrl s.msgPayload
    let B := scr1 params.G params.prbs c.nid c.lmax (pack params.G c.lmax m)
    let erm := params.rmTx rateMatchCall (params.polarEncode (params.polarAlloc (params.crc B ++ B) code) code)
    let gen := fun n => params.prbs c.nid (m.ssb.toNat % c.lmax.selectorModulus * 864 + n)
    ∃ t, exec .encode s = .next t ∧
      t = { s with status := { s.status with err := .ok, stage := .none, busy := false }, grid := t.grid } ∧
      (∀ n < 432, memRead t ((pbchRE (c.nid % 4)).getD n 0) =
        qpskPoint (erm.getLsbD (2 * n) ^^ gen (2 * n)) (erm.getLsbD (2 * n + 1) ^^ gen (2 * n + 1))) ∧
      ∀ a, (∀ i ∈ pbchRE (c.nid % 4), a < 0x1000 + 8 * i ∨ 0x1000 + 8 * i + 8 ≤ a) → gridByte t a = gridByte s a

/-- R232, R87: for any parameters, a grid element ENCODE changes is a data element, and then holds one of the four word pairs of the
constellation. -/
def Obligations.EncodeWritesOnlyConstellation : Prop :=
  ∀ (p : Params) (s t : State) (i : Nat), encodeCommand p s = .next t → memRead t i ≠ memRead s i →
    i ∈ pbchRE (nidField s.cfg % 4) ∧
    memRead t i ∈ [Sample.mk 0x3F3504F3#32 0x3F3504F3#32, Sample.mk 0x3F3504F3#32 0xBF3504F3#32,
      Sample.mk 0xBF3504F3#32 0x3F3504F3#32, Sample.mk 0xBF3504F3#32 0xBF3504F3#32]

/-! ### DECODE (spec/41_codec_commands.md R155) -/

/-- R155: DECODE, ready, with its facet, a legal configuration and CODE, completes its own sequence: with the message its stages
recover from the 432 samples, the results and CRC_OK are written; with a stage's error, that error and its stage are reported, CRC_OK
is 0 and the results hold free values with the reserved bits 0 (R283, log 10). Nothing else changes. -/
def Obligations.DecodeEndsByItsStages : Prop :=
  ∀ (s : State) (c : CodecConfig) (code : PolarCode),
    s.status.ready = true → s.status.decReady = true → codecConfig s.cfg = some c → s.code = some code →
    exec .decode s = .next
      (match decodeSamples params c code (ssbOperand s.decSsb) (reDemap (c.nid % 4) s) with
      | .ok m =>
        { s with
          status := { s.status with crcOk := true, err := .ok, stage := .none, busy := false }
          resCtrl := m.ctrlWord
          resPayload := m.payloadWord }
      | .error (e, st) =>
        { s with
          status := { s.status with crcOk := false, err := e, stage := st, busy := false }
          resCtrl := Config.freeWord s.freeIndex &&& 0x00003F3F#32
          resPayload := Config.freeWord (s.freeIndex + 1) &&& 0x00FFFFFF#32
          freeIndex := s.freeIndex + 2 })

/-- R155, for any parameters: when the receive rate matcher and the polar decoder succeed and the checksum passes, the result is the
message unpacked from the stage-1 descrambled first 32 bits, CRC_OK = 1 and ERR = OK; nothing else changes. -/
def Obligations.DecodeAcceptsCheckedVector : Prop :=
  ∀ (p : Params) (s : State) (c : CodecConfig) (code : PolarCode) (Ys : Vector Soft 512) (Ch : BitVec 56),
    s.status.ready = true → s.status.decReady = true → codecConfig s.cfg = some c → s.code = some code →
    p.rmRx rateMatchCall (descr2Soft p.prbs c.nid c.lmax (ssbOperand s.decSsb)
      (qpskDemap p.demod (reDemap (c.nid % 4) s))) = (Ys, true) →
    p.polarDecode Ys code = (Ch, true) → p.crcCheck Ch = true →
    let m := unpack p.G c.lmax (scr1 p.G p.prbs c.nid c.lmax (Ch.extractLsb' 0 32)) (ssbOperand s.decSsb)
    decodeCommand p s = .next { s with
      status := { s.status with crcOk := true, err := .ok, stage := .none, busy := false }
      resCtrl := m.ctrlWord
      resPayload := m.payloadWord }

/-- R288, R289, R283, for any parameters: a failing rate matcher ends DECODE with PRIMITIVE_FAIL at stage 5, a failing polar decoder with
PRIMITIVE_FAIL at stage 4, a failing checksum with DECODE_REJECT at stage 3; CRC_OK is 0, the results are left unspecified with the
reserved bits 0, and nothing else the spec gives the block changes, READY among it (the count of free words may, log 10). ENCODE
never ends with PRIMITIVE_FAIL. -/
def Obligations.DecodeStageErrors : Prop :=
  (∀ (p : Params) (s : State) (c : CodecConfig) (code : PolarCode),
    s.status.ready = true → s.status.decReady = true → codecConfig s.cfg = some c → s.code = some code →
    let rm := p.rmRx rateMatchCall (descr2Soft p.prbs c.nid c.lmax (ssbOperand s.decSsb)
      (qpskDemap p.demod (reDemap (c.nid % 4) s)))
    let pd := p.polarDecode rm.1 code
    let endsWith := fun (e : ErrorCode) (st : StageCode) (field : Word) => ∃ t, decodeCommand p s = .next t ∧
      t = { s with
        status := { s.status with crcOk := false, err := e, stage := st, busy := false }
        resCtrl := t.resCtrl
        resPayload := t.resPayload
        freeIndex := t.freeIndex } ∧
      t.resCtrl &&& ~~~0x00003F3F#32 = 0#32 ∧ t.resPayload &&& ~~~0x00FFFFFF#32 = 0#32 ∧
      t.status.word &&& 0x00000FF0#32 = field
    (rm.2 = false → endsWith .primitiveFail .rateMatch 0x00000570#32) ∧
    (rm.2 = true → pd.2 = false → endsWith .primitiveFail .polar 0x00000470#32) ∧
    (rm.2 = true → pd.2 = true → p.crcCheck pd.1 = false → endsWith .decodeReject .crc 0x00000360#32)) ∧
  ∀ (p : Params) (s t : State), encodeCommand p s = .next t → t.status.err ≠ .primitiveFail

/-- R37, for any parameters: DECODE leaves CRC_OK = 1 exactly when it ends with ERR = OK, and then the vector this DECODE recovered from
its samples passed the check. A step changes CRC_OK only by a platform reset, which clears it (R320), or by a DECODE: no other command
and no other host access does. -/
def Obligations.CrcOkReportsAcceptance : Prop :=
  (∀ (p : Params) (s t : State), decodeCommand p s = .next t →
    (t.status.crcOk = true ↔ t.status.err = .ok) ∧
    (t.status.err = .ok → ∃ c code, codecConfig s.cfg = some c ∧ s.code = some code ∧
      let rm := p.rmRx rateMatchCall (descr2Soft p.prbs c.nid c.lmax (ssbOperand s.decSsb)
        (qpskDemap p.demod (reDemap (c.nid % 4) s)))
      rm.2 = true ∧ (p.polarDecode rm.1 code).2 = true ∧ p.crcCheck (p.polarDecode rm.1 code).1 = true)) ∧
  (∀ (i : Instr) (s t : State), i ≠ .decode → exec i s = .next t → t.status.crcOk = s.status.crcOk) ∧
  (∀ s t : State, step s = .next t → t.status.crcOk ≠ s.status.crcOk →
    (t.status.crcOk = false ∧ ∃ rest, s.pending = .reset :: rest) ∨
      ∃ w rest, s.pending = .write .w32 0 w :: rest ∧ decode w = .ok .decode) ∧
  ∀ (s : State) (w : AccessWidth) (off : Nat) (d : Word),
    (hostRead w off s).status.crcOk = s.status.crcOk ∧ (hostWriteWord s off d).status.crcOk = s.status.crcOk

/-! ### PACK and UNPACK (spec/40_packer_interleaver.md) -/

/-- R137: PACK with a legal CFG puts the message's bits, read from MSG_CTRL and MSG_PAYLOAD (R106), at the physical positions of their
logical indices (R132) in PACKED and writes ERR = OK and STAGE = 0; READY, the facets and the message fields' values do not matter, and
nothing else changes. With NID above 1007 or LMAX code 3 it ends with INVALID_INPUT, PACKED unchanged. The table G is the default
(log 5), which is a permutation; the rule's example uses it. -/
def Obligations.PackWritesPackedVector : Prop :=
  Function.Injective params.G ∧
  (∀ s : State, (s.cfg.extractLsb' 0 10).toNat ≤ 1007 → s.cfg.extractLsb' 16 2 ≠ 3#2 →
    ∃ A : BitVec 32,
      exec .pack s = .next { s with
        packed := A
        status := { s.status with err := .ok, stage := .none, busy := false } } ∧
      (∀ b < 4, A.getLsbD (params.G (Fin.ofNat 32 (3 - b))) = s.msgCtrl.getLsbD b) ∧
      A.getLsbD (params.G 10) = s.msgCtrl.getLsbD 4 ∧
      A.getLsbD (params.G 11) = (if s.cfg.extractLsb' 16 2 = 2#2 then s.msgCtrl.getLsbD 13 else s.msgCtrl.getLsbD 5) ∧
      A.getLsbD (params.G 12) = (if s.cfg.extractLsb' 16 2 = 2#2 then s.msgCtrl.getLsbD 12 else false) ∧
      A.getLsbD (params.G 13) = (if s.cfg.extractLsb' 16 2 = 2#2 then s.msgCtrl.getLsbD 11 else false) ∧
      A.getLsbD (params.G 14) = s.msgPayload.getLsbD 0 ∧
      (∀ i, 1 ≤ i → i ≤ 6 → A.getLsbD (params.G (Fin.ofNat 32 (i + 3))) = s.msgPayload.getLsbD i) ∧
      (∀ i, 7 ≤ i → i ≤ 23 → A.getLsbD (params.G (Fin.ofNat 32 (i + 8))) = s.msgPayload.getLsbD i) ∧
      (s.cfg = 0#32 → s.msgCtrl = 0x00000205#32 → s.msgPayload = 0#32 → A = 0x00820000#32)) ∧
  ∀ s : State, (1007 < (s.cfg.extractLsb' 0 10).toNat ∨ s.cfg.extractLsb' 16 2 = 3#2) →
    exec .pack s = .next { s with status := { s.status with err := .invalidInput, stage := .none, busy := false } }

/-- R138: UNPACK with a legal CFG writes RES_CTRL and RES_PAYLOAD field by field as R134 gives them from PACKED and DEC_SSB, and ERR = OK
and STAGE = 0; nothing else changes; and the rule's example (default G, log 5). With NID above 1007 or LMAX code 3 it ends with
INVALID_INPUT, the results unchanged. -/
def Obligations.UnpackWritesRecoveredMessage : Prop :=
  (∀ s : State, (s.cfg.extractLsb' 0 10).toNat ≤ 1007 → s.cfg.extractLsb' 16 2 ≠ 3#2 →
    ∃ rc rp : Word,
      exec .unpack s = .next { s with
        resCtrl := rc
        resPayload := rp
        status := { s.status with err := .ok, stage := .none, busy := false } } ∧
      rc &&& ~~~0x00003F3F#32 = 0#32 ∧ rp &&& ~~~0x00FFFFFF#32 = 0#32 ∧
      (∀ b < 4, rc.getLsbD b = s.packed.getLsbD (params.G (Fin.ofNat 32 (3 - b)))) ∧
      rc.getLsbD 4 = s.packed.getLsbD (params.G 10) ∧
      rc.getLsbD 5 = (if s.cfg.extractLsb' 16 2 = 2#2 then false else s.packed.getLsbD (params.G 11)) ∧
      (∀ b < 3, rc.getLsbD (8 + b) = s.decSsb.getLsbD b) ∧
      rc.getLsbD 11 = (if s.cfg.extractLsb' 16 2 = 2#2 then s.packed.getLsbD (params.G 13) else s.decSsb.getLsbD 3) ∧
      rc.getLsbD 12 = (if s.cfg.extractLsb' 16 2 = 2#2 then s.packed.getLsbD (params.G 12) else s.decSsb.getLsbD 4) ∧
      rc.getLsbD 13 = (if s.cfg.extractLsb' 16 2 = 2#2 then s.packed.getLsbD (params.G 11) else s.decSsb.getLsbD 5) ∧
      rp.getLsbD 0 = s.packed.getLsbD (params.G 14) ∧
      (∀ i, 1 ≤ i → i ≤ 6 → rp.getLsbD i = s.packed.getLsbD (params.G (Fin.ofNat 32 (i + 3)))) ∧
      (∀ i, 7 ≤ i → i ≤ 23 → rp.getLsbD i = s.packed.getLsbD (params.G (Fin.ofNat 32 (i + 8)))) ∧
      (s.cfg = 0#32 → s.packed = 0x00820000#32 → s.decSsb = 2#32 → rc = 0x00000205#32 ∧ rp = 0#32)) ∧
  ∀ s : State, (1007 < (s.cfg.extractLsb' 0 10).toNat ∨ s.cfg.extractLsb' 16 2 = 3#2) →
    exec .unpack s = .next { s with status := { s.status with err := .invalidInput, stage := .none, busy := false } }

/-- R136, for every interleaver table that is a permutation: (a) unpacking a packed message returns its frame number, flag and payload,
with the SSB index and k_ssb filled as the rule says; (b) packing an unpacked vector returns it, given zero reserved bits when Lmax is
not 64. -/
def Obligations.PackAndUnpackAreInverse : Prop :=
  ∀ G : Fin 32 → Fin 32, Function.Injective G →
    (∀ (m : Message) (issb : BitVec 6), unpack G .l64 (pack G .l64 m) issb =
      { m with kssb := false, ssb := BitVec.ofNat 6 (m.ssb.toNat / 8 * 8 + issb.toNat % 8) }) ∧
    (∀ (l : Lmax) (m : Message) (issb : BitVec 6), l ≠ .l64 → unpack G l (pack G l m) issb = { m with ssb := issb }) ∧
    (∀ (A : BitVec 32) (issb : BitVec 6), pack G .l64 (unpack G .l64 A issb) = A) ∧
    ∀ (l : Lmax) (A : BitVec 32) (issb : BitVec 6), l ≠ .l64 → A.getLsbD (G 12) = false → A.getLsbD (G 13) = false →
      pack G l (unpack G l A issb) = A

/-- R135: on unpack, k_ssb is 0 when Lmax = 64; SSB-index bits 2..0 always come from the supplied index, and all six when Lmax is not
64; the reserved positions are then ignored. -/
def Obligations.UncarriedFieldsFilled : Prop :=
  ∀ (G : Fin 32 → Fin 32) (A : BitVec 32) (issb : BitVec 6), Function.Injective G →
    (unpack G .l64 A issb).kssb = false ∧
    (∀ l : Lmax, (unpack G l A issb).ssb.toNat % 8 = issb.toNat % 8) ∧
    (∀ l : Lmax, l ≠ .l64 → (unpack G l A issb).ssb = issb) ∧
    ∀ (l : Lmax) (B : BitVec 32), l ≠ .l64 →
      (∀ p : Fin 32, p ≠ G 12 → p ≠ G 13 → A.getLsbD p = B.getLsbD p) → unpack G l A issb = unpack G l B issb

/-- R139: the content of each physical position under the default table (log 5), for each Lmax. -/
def Obligations.PackedLayoutUnderDefaultTable : Prop :=
  ∀ (l : Lmax) (m : Message),
    let A := pack defaultG l m
    let P := m.payload.getLsbD
    A.getLsbD 0 = m.hrf ∧ A.getLsbD 1 = P 0 ∧
    A.getLsbD 2 = (if l = .l64 then m.ssb.getLsbD 3 else false) ∧
    A.getLsbD 3 = (if l = .l64 then m.ssb.getLsbD 4 else false) ∧ A.getLsbD 4 = P 7 ∧
    A.getLsbD 5 = (if l = .l64 then m.ssb.getLsbD 5 else m.kssb) ∧ A.getLsbD 6 = P 4 ∧ A.getLsbD 7 = P 6 ∧
    A.getLsbD 8 = P 1 ∧ A.getLsbD 9 = P 8 ∧ A.getLsbD 10 = P 3 ∧ A.getLsbD 11 = P 9 ∧ A.getLsbD 12 = P 10 ∧
    A.getLsbD 13 = P 11 ∧ A.getLsbD 14 = P 12 ∧ A.getLsbD 15 = P 13 ∧ A.getLsbD 16 = m.sfn4.getLsbD 3 ∧
    A.getLsbD 17 = m.sfn4.getLsbD 0 ∧ A.getLsbD 18 = m.sfn4.getLsbD 1 ∧ A.getLsbD 19 = P 14 ∧ A.getLsbD 20 = P 15 ∧
    A.getLsbD 21 = P 16 ∧ A.getLsbD 22 = P 17 ∧ A.getLsbD 23 = m.sfn4.getLsbD 2 ∧ A.getLsbD 24 = P 5 ∧
    A.getLsbD 25 = P 18 ∧ A.getLsbD 26 = P 19 ∧ A.getLsbD 27 = P 20 ∧ A.getLsbD 28 = P 21 ∧ A.getLsbD 29 = P 22 ∧
    A.getLsbD 30 = P 2 ∧ A.getLsbD 31 = P 23

/-! ### Scrambling (spec/42_scrambling.md) -/

/-- R182: on encode the stage-1 selector is (sfn4 >> 1) mod 4, for every interleaver table that is a permutation; sfn4 = 0b0101 gives
2. -/
def Obligations.StageOneSelectorFromFrameNumber : Prop :=
  (∀ (G : Fin 32 → Fin 32) (l : Lmax) (m : Message), Function.Injective G →
    stage1Selector G (pack G l m) = m.sfn4.toNat / 2 % 4) ∧
  ∀ (G : Fin 32 → Fin 32) (l : Lmax) (m : Message), Function.Injective G → m.sfn4 = 0b0101#4 →
    stage1Selector G (pack G l m) = 2

/-- R187, R184: stage 1 leaves the excluded positions alone and undoes itself, for any table and any generator. -/
def Obligations.StageOneUndoesItself : Prop :=
  ∀ (G : Fin 32 → Fin 32) (prbs : Nat → Nat → Bool) (nid : Nat) (l : Lmax) (A : BitVec 32),
    (∀ p < 32, excluded G p = true → (scr1 G prbs nid l A).getLsbD p = A.getLsbD p) ∧
    stage1Selector G (scr1 G prbs nid l A) = stage1Selector G A ∧ scr1 G prbs nid l (scr1 G prbs nid l A) = A

/-- R186: which generator bit stage 1 uses at each physical position under the default table (log 5); exactly 26 are used, in order. -/
def Obligations.StageOneGeneratorIndices : Prop :=
  let table : List (Option Nat) :=
    [none, some 0, none, none, some 1, none, some 2, some 3, some 4, some 5, some 6, some 7, some 8, some 9, some 10, some 11,
      some 12, some 13, none, some 14, some 15, some 16, some 17, none, some 18, some 19, some 20, some 21, some 22, some 23,
      some 24, some 25]
  table.filterMap id = List.range 26 ∧
  ∀ (prbs : Nat → Nat → Bool) (nid : Nat) (l : Lmax) (A : BitVec 32) (p : Fin 32),
    (scr1 defaultG prbs nid l A).getLsbD p =
      match table.getD p none with
      | none => A.getLsbD p
      | some j => A.getLsbD p ^^ prbs nid (l.stride * stage1Selector defaultG A + j)

/-- R151, R183, R188: the Lmax-dependent constants, and the examples of the stage-2 selector. -/
def Obligations.LmaxConstants : Prop :=
  (Lmax.l4.stride = 29 ∧ Lmax.l8.stride = 29 ∧ Lmax.l64.stride = 26) ∧
  (∀ ssb : BitVec 6, stage2Selector .l4 ssb = ssb.toNat % 4 ∧ stage2Selector .l8 ssb = ssb.toNat % 8 ∧
    stage2Selector .l64 ssb = ssb.toNat % 8) ∧
  stage2Selector .l4 5#6 = 1 ∧ stage2Selector .l8 5#6 = 5

/-- R190, R189, R15: stage-2 descrambling undoes stage 2 on the signs, for the same N_id and the same selector: soft values that say the
bits of the scrambled vector come out saying the bits of the vector; an erasure stays one; and each stage undoes itself. -/
def Obligations.StageTwoUndoneOnSigns : Prop :=
  ∀ (prbs : Nat → Nat → Bool) (nid : Nat) (l : Lmax) (ssb issb : BitVec 6) (erm : BitVec 864) (sf : Vector Soft 864),
    (stage2Selector l issb = stage2Selector l ssb →
      (∀ n : Fin 864, SoftSays ((scr2 prbs nid l ssb erm).getLsbD n) sf[n]) →
      ∀ n : Fin 864, SoftSays (erm.getLsbD n) (descr2Soft prbs nid l issb sf)[n]) ∧
    (∀ n : Fin 864, sf[n] = 0 → (descr2Soft prbs nid l issb sf)[n] = 0) ∧
    scr2 prbs nid l ssb (scr2 prbs nid l ssb erm) = erm ∧
    descr2Soft prbs nid l issb (descr2Soft prbs nid l issb sf) = sf

/-- R192: with an interleaver table that is a permutation, stage 1 depends on no generator bit above index 112; stage 2 and its inverse
depend on none above 6911. -/
def Obligations.GeneratorIndexBounds : Prop :=
  ∀ (f g : Nat → Nat → Bool) (nid : Nat),
    ((∀ n ≤ 112, f nid n = g nid n) → ∀ (G : Fin 32 → Fin 32) (l : Lmax) (A : BitVec 32), Function.Injective G →
      scr1 G f nid l A = scr1 G g nid l A) ∧
    ((∀ n ≤ 6911, f nid n = g nid n) → ∀ (l : Lmax) (ssb : BitVec 6) (erm : BitVec 864) (sf : Vector Soft 864),
      scr2 f nid l ssb erm = scr2 g nid l ssb erm ∧ descr2Soft f nid l ssb sf = descr2Soft g nid l ssb sf)

/-- R181: the default generator (log 5) is the sum of two sequences with the rule's initial values and recurrences, from index
1600 on. -/
def Obligations.GeneratorFollowsRecurrences : Prop :=
  ∀ seed : Nat, seed ≤ 1007 → ∃ x1 x2 : Nat → Bool,
    x1 0 = true ∧ (∀ n, 1 ≤ n → n ≤ 30 → x1 n = false) ∧ (∀ n ≤ 30, x2 n = (seed >>> n).testBit 0) ∧
    (∀ n, x1 (n + 31) = (x1 (n + 3) ^^ x1 n)) ∧
    (∀ n, x2 (n + 31) = (x2 (n + 3) ^^ x2 (n + 2) ^^ x2 (n + 1) ^^ x2 n)) ∧
    ∀ n, goldBit seed n = (x1 (n + 1600) ^^ x2 (n + 1600))

/-! ### Checksum, rate matcher, QPSK (spec/43_channel_coding.md, spec/44_qpsk.md) -/

/-- R202, R203: the default checksum (log 5) is the bit-serial form with the generator 0xB2B117: the register r, fed the 56 elements of
an attached vector, gives the parity bits after the first 32 and ends at 0, so that the vector is divisible by g(D). The check accepts
the vector, and rejects it with any one parity bit flipped. -/
def Obligations.ChecksumDividesAttachedVector : Prop :=
  ∀ B : BitVec 32,
    (∀ i < 32, (attachCrc params B).getLsbD i = B.getLsbD i) ∧
    (∃ r : Nat → BitVec 24, r 0 = 0#24 ∧
      (∀ n < 56, r (n + 1) =
        if (r n).getLsbD 23 ^^ (attachCrc params B).getLsbD n then (r n <<< 1) ^^^ 0xB2B117#24 else r n <<< 1) ∧
      (∀ i < 24, (attachCrc params B).getLsbD (32 + i) = (r 32).getLsbD (23 - i)) ∧ r 56 = 0#24) ∧
    params.crcCheck (attachCrc params B) = true ∧
    ∀ i < 24, params.crcCheck (attachCrc params B ^^^ BitVec.twoPow 56 (32 + i)) = false

/-- R208: the default rate matcher (log 5) sends coded bit J(k mod 512) as element k, J(n) = P(floor(32 n / 512)) 16 + (n mod 16); it
repeats its first 352 outputs from 512 on, sends every coded bit, and maps 0 to 0. -/
def Obligations.RateMatcherRepeats : Prop :=
  let P : List Nat :=
    [0, 1, 2, 4, 3, 5, 6, 7, 8, 16, 9, 17, 10, 18, 11, 19, 12, 20, 13, 21, 14, 22, 15, 23, 24, 25, 26, 28, 27, 29, 30, 31]
  let J : Nat → Nat := fun n => P.getD (32 * n / 512) 0 * 16 + n % 16
  ∀ (call : RateMatchCall) (d : BitVec 512),
    (∀ k < 864, (defaultRmTx call d).getLsbD k = d.getLsbD (J (k % 512))) ∧
    (∀ k < 352, (defaultRmTx call d).getLsbD (512 + k) = (defaultRmTx call d).getLsbD k) ∧
    (∀ d', (∀ k < 512, (defaultRmTx call d).getLsbD k = (defaultRmTx call d').getLsbD k) → d = d') ∧
    defaultRmTx call 0#512 = 0#864

/-- R235, R236: the default demapper (log 5) keeps the sign of every constellation point; the sign bit of a word alone decides its soft
value's sign, except that zeros, infinities and NaNs give 0. -/
def Obligations.DemapperSigns : Prop :=
  DemapKeepsSigns params ∧
  ∀ w : Word,
    ((w.extractLsb' 0 31 = 0#31 ∨ w.extractLsb' 23 8 = 0xFF#8) → binary32Value w = 0) ∧
    (w.extractLsb' 0 31 ≠ 0#31 → w.extractLsb' 23 8 ≠ 0xFF#8 → SoftSays (w.getLsbD 31) (binary32Value w))

/-! ### Resource elements (spec/45_re_mapping.md) -/

/-- R255: the closed form of PBCH_RE(v), and its entries strictly rising. -/
def Obligations.DataElementsClosedForm : Prop :=
  ∀ v < 4, ∀ n < 432,
    let d := fun r => ([0, 1, 2, 3].filter (fun x => x != v)).getD r 0
    (pbchRE v).getD n 0 =
      (if n ≤ 179 then 240 + 4 * (n / 3) + d (n % 3)
      else if n ≤ 215 then 480 + 4 * ((n - 180) / 3) + d ((n - 180) % 3)
      else if n ≤ 251 then 672 + 4 * ((n - 216) / 3) + d ((n - 216) % 3)
      else 720 + 4 * ((n - 252) / 3) + d ((n - 252) % 3)) ∧
    (n + 1 < 432 → (pbchRE v).getD n 0 < (pbchRE v).getD (n + 1) 0)

/-- R256, R254, R253: 432 data and 144 reference-signal elements; together they are the occupied subcarriers of rows 1 to 3, and an
element is a reference-signal one exactly when its subcarrier is v modulo 4. -/
def Obligations.DataAndReferenceElementsSplitRows : Prop :=
  (∀ v < 4, (pbchRE v).length = 432 ∧ (dmrsRE v).length = 144) ∧
  ∀ v l k, k < 240 →
    (240 * l + k ∈ pbchRE v ↔
      ((l = 1 ∨ l = 3) ∨ (l = 2 ∧ (k ≤ 47 ∨ 192 ≤ k))) ∧ k % 4 ≠ v) ∧
    (240 * l + k ∈ dmrsRE v ↔ ((l = 1 ∨ l = 3) ∨ (l = 2 ∧ (k ≤ 47 ∨ 192 ≤ k))) ∧ k % 4 = v)

/-- R260: reading after writing with no grid write between returns the symbols, also for another N_id with the same N_id mod 4. -/
def Obligations.DemapReturnsMappedSymbols : Prop :=
  ∀ (nid nid' : Nat) (S : Vector Sample 432) (s : State), nid % 4 = nid' % 4 →
    reDemap (refShift nid') (reMap (refShift nid) S s) = S

/-! ### Laws of the whole pipeline (spec/41_codec_commands.md R157, R158) -/

/-- R157, for any parameters: the outcome of ENCODE, DECODE, PACK and UNPACK is a function of the operands the rule names. Values the
rules call unspecified are excluded. -/
def Obligations.CommandsAreFunctionsOfTheirOperands : Prop :=
  ∀ (p : Params) (s t s' t' : State), codecConfig s.cfg = codecConfig t.cfg →
    (encodeCommand p s = .next s' → encodeCommand p t = .next t' →
      s.status.ready = t.status.ready → s.status.encReady = t.status.encReady →
      messageOperand s.msgCtrl s.msgPayload = messageOperand t.msgCtrl t.msgPayload → s.code = t.code →
      s'.status.err = t'.status.err ∧ s'.status.stage = t'.status.stage ∧
      ∀ c, codecConfig s.cfg = some c → s'.status.err = .ok → ∀ i ∈ pbchRE (c.nid % 4), memRead s' i = memRead t' i) ∧
    (decodeCommand p s = .next s' → decodeCommand p t = .next t' →
      s.status.ready = t.status.ready → s.status.decReady = t.status.decReady →
      ssbOperand s.decSsb = ssbOperand t.decSsb → s.code = t.code →
      (∀ c, codecConfig s.cfg = some c → ∀ i ∈ pbchRE (c.nid % 4), memRead s i = memRead t i) →
      s'.status.err = t'.status.err ∧ s'.status.stage = t'.status.stage ∧ s'.status.crcOk = t'.status.crcOk ∧
      (s'.status.err = .ok → s'.resCtrl = t'.resCtrl ∧ s'.resPayload = t'.resPayload)) ∧
    (packCommand p s = .next s' → packCommand p t = .next t' →
      messageOperand s.msgCtrl s.msgPayload = messageOperand t.msgCtrl t.msgPayload →
      s'.status.err = t'.status.err ∧ s'.status.stage = t'.status.stage ∧ (s'.status.err = .ok → s'.packed = t'.packed)) ∧
    (unpackCommand p s = .next s' → unpackCommand p t = .next t' → s.packed = t.packed →
      ssbOperand s.decSsb = ssbOperand t.decSsb →
      s'.status.err = t'.status.err ∧ s'.status.stage = t'.status.stage ∧
      (s'.status.err = .ok → s'.resCtrl = t'.resCtrl ∧ s'.resPayload = t'.resPayload))

/-- R158, for any parameters with the premises P1, P2 and P3 and an interleaver table that is a permutation: after an ENCODE that
completed, a DECODE with the same configuration, CODE and data elements (P4) and a DEC_SSB congruent to the message's SSB index (P5)
ends with ERR = OK and CRC_OK = 1 and the results are those of unpacking the packed message: the frame number, the flag and the payload
are the message's, k_ssb too when Lmax is not 64. -/
def Obligations.NoiselessRoundTrip : Prop :=
  ∀ (p : Params) (code : PolarCode) (c : CodecConfig) (s s1 s2 : State),
    Function.Injective p.G → ChecksumAccepts p → DemapKeepsSigns p → CodingNoiseless p code →
    s.status.ready = true → s.status.encReady = true → codecConfig s.cfg = some c → s.code = some code →
    encodeCommand p s = .next s1 →
    s2.status.ready = true → s2.status.decReady = true → codecConfig s2.cfg = some c → s2.code = some code →
    (∀ i ∈ pbchRE (c.nid % 4), memRead s2 i = memRead s1 i) →
    let m := messageOperand s.msgCtrl s.msgPayload
    let issb := ssbOperand s2.decSsb
    issb.toNat % c.lmax.selectorModulus = m.ssb.toNat % c.lmax.selectorModulus →
    ∃ t, decodeCommand p s2 = .next t ∧ t.status.err = .ok ∧ t.status.stage = .none ∧ t.status.crcOk = true ∧
      t.resCtrl = (unpack p.G c.lmax (pack p.G c.lmax m) issb).ctrlWord ∧
      t.resCtrl.extractLsb' 0 4 = m.sfn4 ∧ t.resCtrl.getLsbD 4 = m.hrf ∧
      t.resCtrl.getLsbD 5 = (if c.lmax = .l64 then false else m.kssb) ∧
      t.resPayload = m.payload.setWidth 32

/-! ### Operand assembly (spec/30_encoding.md R105 to R107) -/

/-- R105, R106, R107, R42, R44, R45, R150: the operands of every command, bit by bit from the registers: N_id from CFG[9:0], Lmax from
the code in CFG[17:16] (0 is 4, 1 is 8, 2 is 64; 3, or N_id above 1007, is no configuration), the facet enables, the message and the
supplied SSB index. -/
def Obligations.OperandsReadFromRegisterFields : Prop :=
  (∀ cfg : Word,
    (cfg.toNat % 1024 ≤ 1007 → cfg.toNat / 65536 % 4 = 0 → codecConfig cfg = some ⟨cfg.toNat % 1024, .l4⟩) ∧
    (cfg.toNat % 1024 ≤ 1007 → cfg.toNat / 65536 % 4 = 1 → codecConfig cfg = some ⟨cfg.toNat % 1024, .l8⟩) ∧
    (cfg.toNat % 1024 ≤ 1007 → cfg.toNat / 65536 % 4 = 2 → codecConfig cfg = some ⟨cfg.toNat % 1024, .l64⟩) ∧
    (1007 < cfg.toNat % 1024 ∨ cfg.toNat / 65536 % 4 = 3 → codecConfig cfg = none) ∧
    enEncField cfg = cfg.getLsbD 24 ∧ enDecField cfg = cfg.getLsbD 25) ∧
  (∀ ctrl payload : Word,
    let m := messageOperand ctrl payload
    (∀ b < 4, m.sfn4.getLsbD b = ctrl.getLsbD b) ∧ m.hrf = ctrl.getLsbD 4 ∧ m.kssb = ctrl.getLsbD 5 ∧
    (∀ b < 6, m.ssb.getLsbD b = ctrl.getLsbD (8 + b)) ∧ ∀ i < 24, m.payload.getLsbD i = payload.getLsbD i) ∧
  ∀ (decSsb : Word), ∀ b < 6, (ssbOperand decSsb).getLsbD b = decSsb.getLsbD b
end

