-- ==== Sys2Proof/Laws/Bits.lean ====
section
/-! SUPPORT. What `setBit`, `bitsOf` and `flagAt` give at each element. -/

namespace Sys2Proof.Machine

theorem getLsbD_setBit {n : Nat} (x : BitVec n) (i j : Nat) (b : Bool) (hi : i < n) :
    (setBit x i b).getLsbD j = if j = i then b else x.getLsbD j := by
  unfold setBit
  by_cases hj : j = i
  · subst hj
    cases b <;> simp [hi]
  · have hij : ¬i = j := fun h => hj h.symm
    cases b
    · by_cases hjn : j < n
      · simp [hj, hjn]
      · simp [hj, hij, BitVec.getLsbD_of_ge x j (by omega)]
    · simp [hj, hij]

@[simp] theorem getLsbD_bitsOf (n : Nat) (f : Nat → Bool) (i : Nat) :
    (bitsOf n f).getLsbD i = (decide (i < n) && f i) := by
  induction n with
  | zero => simp [bitsOf]
  | succ n ih =>
    rw [bitsOf, BitVec.getLsbD_cons, ih]
    by_cases h : i = n
    · subst h; simp
    · have : (i < n) ↔ (i < n + 1) := by omega
      simp [h, this]

@[simp] theorem getElem_bitsOf (n : Nat) (f : Nat → Bool) (i : Nat) (h : i < n) : (bitsOf n f)[i] = f i := by
  rw [← BitVec.getLsbD_eq_getElem, getLsbD_bitsOf]
  simp [h]

theorem bitsOf_congr {n : Nat} {f g : Nat → Bool} (h : ∀ i < n, f i = g i) : bitsOf n f = bitsOf n g := by
  apply BitVec.eq_of_getElem_eq
  intro i hi
  simp [h i hi]

theorem bitsOf_getLsbD {n : Nat} (x : BitVec n) : bitsOf n x.getLsbD = x := by
  apply BitVec.eq_of_getElem_eq
  intro i hi
  simp [hi]

@[simp] theorem getLsbD_flagAt (b : Bool) (i j : Nat) :
    (flagAt b i).getLsbD j = (decide (j < 32) && (decide (j = i) && b)) := by
  unfold flagAt
  by_cases hj : j < 32
  · by_cases hlt : j < i
    · have : ¬j = i := by omega
      simp [hj, hlt, this]
    · by_cases he : j = i
      · subst he; simp [hj]
      · have : ¬(j - i = 0) := by omega
        simp [hj, hlt, he, this]
  · simp [hj]

@[simp] theorem getElem_flagAt (b : Bool) (i j : Nat) (h : j < 32) : (flagAt b i)[j] = (decide (j = i) && b) := by
  rw [← BitVec.getLsbD_eq_getElem, getLsbD_flagAt]
  simp [h]

end Sys2Proof.Machine
end

