-- ==== Sys2Proof/Laws/Geometry.lean ====
section
/-! SUPPORT. The resource-element lists: which indices they hold, and their lengths (spec/45_re_mapping.md R255, R256). -/

namespace Sys2Proof.Machine

theorem mem_rowElements {v l i : Nat} {res : Bool} :
    i ∈ rowElements v res l ↔ ∃ k < 240, inRowSet l k = true ∧ reserved v k = res ∧ i = 240 * l + k := by
  simp only [rowElements, List.mem_map, List.mem_filter, List.mem_range, Bool.and_eq_true, beq_iff_eq, elementIndex]
  constructor
  · rintro ⟨k, ⟨hk, h1, h2⟩, rfl⟩
    exact ⟨k, hk, h1, h2, rfl⟩
  · rintro ⟨k, hk, h1, h2, rfl⟩
    exact ⟨k, ⟨hk, h1, h2⟩, rfl⟩

theorem mem_pbchRE {v i : Nat} :
    i ∈ pbchRE v ↔ ∃ l k, (l = 1 ∨ l = 2 ∨ l = 3) ∧ k < 240 ∧ inRowSet l k = true ∧ k % 4 ≠ v ∧ i = 240 * l + k := by
  simp only [pbchRE, List.mem_flatMap, mem_rowElements, List.mem_cons, List.not_mem_nil, or_false, reserved,
    decide_eq_false_iff_not]
  constructor
  · rintro ⟨l, hl, k, hk, h1, h2, rfl⟩
    exact ⟨l, k, hl, hk, h1, h2, rfl⟩
  · rintro ⟨l, k, hl, hk, h1, h2, rfl⟩
    exact ⟨l, hl, k, hk, h1, h2, rfl⟩

/-- Every data element is in rows 1 to 3 (R72). -/
theorem pbchRE_range {v i : Nat} (h : i ∈ pbchRE v) : 240 ≤ i ∧ i < 960 := by
  obtain ⟨l, k, hl, hk, -, -, rfl⟩ := mem_pbchRE.1 h
  omega

theorem pbchRE_lt {v i : Nat} (h : i ∈ pbchRE v) : i < Config.gridLen := (pbchRE_range h).2

theorem refShift_lt (nid : Nat) : refShift nid < 4 := Nat.mod_lt _ (by omega)

theorem forall_shift {P : Nat → Prop} (h0 : P 0) (h1 : P 1) (h2 : P 2) (h3 : P 3) {v : Nat} (_hv : v < 4) : P v := by
  obtain rfl | rfl | rfl | rfl : v = 0 ∨ v = 1 ∨ v = 2 ∨ v = 3 := by omega
  · exact h0
  · exact h1
  · exact h2
  · exact h3

theorem pbchRE_length {v : Nat} (hv : v < 4) : (pbchRE v).length = 432 :=
  forall_shift (P := fun v => (pbchRE v).length = 432) (by decide +kernel) (by decide +kernel) (by decide +kernel)
    (by decide +kernel) hv

theorem pbchRE_nodup (v : Nat) : (pbchRE v).Nodup := by
  have hs : ∀ l, (rowElements v false l).Nodup := fun l =>
    List.Nodup.map (fun a b h => by simpa [elementIndex] using h) (List.Nodup.filter _ List.nodup_range)
  rw [pbchRE, List.nodup_flatMap]
  refine ⟨fun l _ => hs l, ?_⟩
  simp only [List.pairwise_cons, List.mem_cons, List.not_mem_nil, or_false, forall_eq_or_imp, forall_eq, false_imp_iff,
    implies_true, List.Pairwise.nil, and_true]
  have hd : ∀ a b, a ≠ b → (rowElements v false a).Disjoint (rowElements v false b) := by
    intro a b hab i ha hb
    obtain ⟨k, hk, -, -, rfl⟩ := mem_rowElements.1 ha
    obtain ⟨k', hk', -, -, h⟩ := mem_rowElements.1 hb
    omega
  exact ⟨⟨hd _ _ (by decide), hd _ _ (by decide)⟩, hd _ _ (by decide)⟩

/-- The mapping check passes for every shift, so INTERNAL is unreachable (R256, R259). -/
theorem mappingOk_refShift (nid : Nat) : mappingOk (refShift nid) = true :=
  forall_shift (P := fun v => mappingOk v = true) (by decide +kernel) (by decide +kernel) (by decide +kernel)
    (by decide +kernel) (refShift_lt nid)

end Sys2Proof.Machine
end

