-- ==== Sys2Proof/Laws/State.lean ====
section
/-! SUPPORT. What each named update leaves in each field of State and of Status: one lemma per field per update, true by
unfolding, so that no later proof unfolds a record update. -/

namespace Sys2Proof.Machine

/-! ### Status -/

@[simp] theorem finish_ready (t : Status) (e : ErrorCode) (st : StageCode) : (t.finish e st).ready = t.ready := rfl
@[simp] theorem finish_busy (t : Status) (e : ErrorCode) (st : StageCode) : (t.finish e st).busy = false := rfl
@[simp] theorem finish_crcOk (t : Status) (e : ErrorCode) (st : StageCode) : (t.finish e st).crcOk = t.crcOk := rfl
@[simp] theorem finish_err (t : Status) (e : ErrorCode) (st : StageCode) : (t.finish e st).err = e := rfl
@[simp] theorem finish_stage (t : Status) (e : ErrorCode) (st : StageCode) : (t.finish e st).stage = st := rfl
@[simp] theorem finish_encReady (t : Status) (e : ErrorCode) (st : StageCode) : (t.finish e st).encReady = t.encReady := rfl
@[simp] theorem finish_decReady (t : Status) (e : ErrorCode) (st : StageCode) : (t.finish e st).decReady = t.decReady := rfl

/-! ### beginCommand -/

@[simp] theorem beginCommand_status (s : State) : (beginCommand s).status = { s.status with busy := true } := rfl
@[simp] theorem beginCommand_cfg (s : State) : (beginCommand s).cfg = s.cfg := rfl
@[simp] theorem beginCommand_msgCtrl (s : State) : (beginCommand s).msgCtrl = s.msgCtrl := rfl
@[simp] theorem beginCommand_msgPayload (s : State) : (beginCommand s).msgPayload = s.msgPayload := rfl
@[simp] theorem beginCommand_decSsb (s : State) : (beginCommand s).decSsb = s.decSsb := rfl
@[simp] theorem beginCommand_resCtrl (s : State) : (beginCommand s).resCtrl = s.resCtrl := rfl
@[simp] theorem beginCommand_resPayload (s : State) : (beginCommand s).resPayload = s.resPayload := rfl
@[simp] theorem beginCommand_packed (s : State) : (beginCommand s).packed = s.packed := rfl
@[simp] theorem beginCommand_code (s : State) : (beginCommand s).code = s.code := rfl
@[simp] theorem beginCommand_grid (s : State) : (beginCommand s).grid = s.grid := rfl
@[simp] theorem beginCommand_pending (s : State) : (beginCommand s).pending = s.pending := rfl
@[simp] theorem beginCommand_readData (s : State) : (beginCommand s).readData = s.readData := rfl
@[simp] theorem beginCommand_freeIndex (s : State) : (beginCommand s).freeIndex = s.freeIndex := rfl
@[simp] theorem beginCommand_resetCount (s : State) : (beginCommand s).resetCount = s.resetCount := rfl

/-! ### complete -/

@[simp] theorem complete_status (s : State) : (complete s).status = s.status.finish .ok .none := rfl
@[simp] theorem complete_cfg (s : State) : (complete s).cfg = s.cfg := rfl
@[simp] theorem complete_msgCtrl (s : State) : (complete s).msgCtrl = s.msgCtrl := rfl
@[simp] theorem complete_msgPayload (s : State) : (complete s).msgPayload = s.msgPayload := rfl
@[simp] theorem complete_decSsb (s : State) : (complete s).decSsb = s.decSsb := rfl
@[simp] theorem complete_resCtrl (s : State) : (complete s).resCtrl = s.resCtrl := rfl
@[simp] theorem complete_resPayload (s : State) : (complete s).resPayload = s.resPayload := rfl
@[simp] theorem complete_packed (s : State) : (complete s).packed = s.packed := rfl
@[simp] theorem complete_code (s : State) : (complete s).code = s.code := rfl
@[simp] theorem complete_grid (s : State) : (complete s).grid = s.grid := rfl
@[simp] theorem complete_pending (s : State) : (complete s).pending = s.pending := rfl
@[simp] theorem complete_readData (s : State) : (complete s).readData = s.readData := rfl
@[simp] theorem complete_freeIndex (s : State) : (complete s).freeIndex = s.freeIndex := rfl
@[simp] theorem complete_resetCount (s : State) : (complete s).resetCount = s.resetCount := rfl

/-! ### tearDown -/

@[simp] theorem tearDown_status (s : State) :
    (tearDown s).status = { s.status with ready := false, encReady := false, decReady := false } := rfl
@[simp] theorem tearDown_cfg (s : State) : (tearDown s).cfg = s.cfg := rfl
@[simp] theorem tearDown_msgCtrl (s : State) : (tearDown s).msgCtrl = s.msgCtrl := rfl
@[simp] theorem tearDown_msgPayload (s : State) : (tearDown s).msgPayload = s.msgPayload := rfl
@[simp] theorem tearDown_decSsb (s : State) : (tearDown s).decSsb = s.decSsb := rfl
@[simp] theorem tearDown_resCtrl (s : State) : (tearDown s).resCtrl = s.resCtrl := rfl
@[simp] theorem tearDown_resPayload (s : State) : (tearDown s).resPayload = s.resPayload := rfl
@[simp] theorem tearDown_packed (s : State) : (tearDown s).packed = s.packed := rfl
@[simp] theorem tearDown_code (s : State) : (tearDown s).code = none := rfl
@[simp] theorem tearDown_grid (s : State) : (tearDown s).grid = s.grid := rfl
@[simp] theorem tearDown_pending (s : State) : (tearDown s).pending = s.pending := rfl
@[simp] theorem tearDown_readData (s : State) : (tearDown s).readData = s.readData := rfl
@[simp] theorem tearDown_freeIndex (s : State) : (tearDown s).freeIndex = s.freeIndex := rfl
@[simp] theorem tearDown_resetCount (s : State) : (tearDown s).resetCount = s.resetCount := rfl

/-! ### buildCodec -/

@[simp] theorem buildCodec_status (c : PolarCode) (enE enD : Bool) (s : State) :
    (buildCodec c enE enD s).status = { s.status with ready := true, encReady := enE, decReady := enD } := rfl
@[simp] theorem buildCodec_cfg (c : PolarCode) (enE enD : Bool) (s : State) : (buildCodec c enE enD s).cfg = s.cfg := rfl
@[simp] theorem buildCodec_msgCtrl (c : PolarCode) (enE enD : Bool) (s : State) :
    (buildCodec c enE enD s).msgCtrl = s.msgCtrl := rfl
@[simp] theorem buildCodec_msgPayload (c : PolarCode) (enE enD : Bool) (s : State) :
    (buildCodec c enE enD s).msgPayload = s.msgPayload := rfl
@[simp] theorem buildCodec_decSsb (c : PolarCode) (enE enD : Bool) (s : State) :
    (buildCodec c enE enD s).decSsb = s.decSsb := rfl
@[simp] theorem buildCodec_resCtrl (c : PolarCode) (enE enD : Bool) (s : State) :
    (buildCodec c enE enD s).resCtrl = s.resCtrl := rfl
@[simp] theorem buildCodec_resPayload (c : PolarCode) (enE enD : Bool) (s : State) :
    (buildCodec c enE enD s).resPayload = s.resPayload := rfl
@[simp] theorem buildCodec_packed (c : PolarCode) (enE enD : Bool) (s : State) :
    (buildCodec c enE enD s).packed = s.packed := rfl
@[simp] theorem buildCodec_code (c : PolarCode) (enE enD : Bool) (s : State) : (buildCodec c enE enD s).code = some c := rfl
@[simp] theorem buildCodec_grid (c : PolarCode) (enE enD : Bool) (s : State) : (buildCodec c enE enD s).grid = s.grid := rfl
@[simp] theorem buildCodec_pending (c : PolarCode) (enE enD : Bool) (s : State) :
    (buildCodec c enE enD s).pending = s.pending := rfl
@[simp] theorem buildCodec_readData (c : PolarCode) (enE enD : Bool) (s : State) :
    (buildCodec c enE enD s).readData = s.readData := rfl
@[simp] theorem buildCodec_freeIndex (c : PolarCode) (enE enD : Bool) (s : State) :
    (buildCodec c enE enD s).freeIndex = s.freeIndex := rfl
@[simp] theorem buildCodec_resetCount (c : PolarCode) (enE enD : Bool) (s : State) :
    (buildCodec c enE enD s).resetCount = s.resetCount := rfl

/-! ### clearCrcOk -/

@[simp] theorem clearCrcOk_status (s : State) : (clearCrcOk s).status = { s.status with crcOk := false } := rfl
@[simp] theorem clearCrcOk_cfg (s : State) : (clearCrcOk s).cfg = s.cfg := rfl
@[simp] theorem clearCrcOk_msgCtrl (s : State) : (clearCrcOk s).msgCtrl = s.msgCtrl := rfl
@[simp] theorem clearCrcOk_msgPayload (s : State) : (clearCrcOk s).msgPayload = s.msgPayload := rfl
@[simp] theorem clearCrcOk_decSsb (s : State) : (clearCrcOk s).decSsb = s.decSsb := rfl
@[simp] theorem clearCrcOk_resCtrl (s : State) : (clearCrcOk s).resCtrl = s.resCtrl := rfl
@[simp] theorem clearCrcOk_resPayload (s : State) : (clearCrcOk s).resPayload = s.resPayload := rfl
@[simp] theorem clearCrcOk_packed (s : State) : (clearCrcOk s).packed = s.packed := rfl
@[simp] theorem clearCrcOk_code (s : State) : (clearCrcOk s).code = s.code := rfl
@[simp] theorem clearCrcOk_grid (s : State) : (clearCrcOk s).grid = s.grid := rfl
@[simp] theorem clearCrcOk_pending (s : State) : (clearCrcOk s).pending = s.pending := rfl
@[simp] theorem clearCrcOk_readData (s : State) : (clearCrcOk s).readData = s.readData := rfl
@[simp] theorem clearCrcOk_freeIndex (s : State) : (clearCrcOk s).freeIndex = s.freeIndex := rfl
@[simp] theorem clearCrcOk_resetCount (s : State) : (clearCrcOk s).resetCount = s.resetCount := rfl

/-! ### writeResult -/

@[simp] theorem writeResult_status (m : Message) (s : State) : (writeResult m s).status = s.status := rfl
@[simp] theorem writeResult_cfg (m : Message) (s : State) : (writeResult m s).cfg = s.cfg := rfl
@[simp] theorem writeResult_msgCtrl (m : Message) (s : State) : (writeResult m s).msgCtrl = s.msgCtrl := rfl
@[simp] theorem writeResult_msgPayload (m : Message) (s : State) : (writeResult m s).msgPayload = s.msgPayload := rfl
@[simp] theorem writeResult_decSsb (m : Message) (s : State) : (writeResult m s).decSsb = s.decSsb := rfl
@[simp] theorem writeResult_resCtrl (m : Message) (s : State) : (writeResult m s).resCtrl = m.ctrlWord := rfl
@[simp] theorem writeResult_resPayload (m : Message) (s : State) : (writeResult m s).resPayload = m.payloadWord := rfl
@[simp] theorem writeResult_packed (m : Message) (s : State) : (writeResult m s).packed = s.packed := rfl
@[simp] theorem writeResult_code (m : Message) (s : State) : (writeResult m s).code = s.code := rfl
@[simp] theorem writeResult_grid (m : Message) (s : State) : (writeResult m s).grid = s.grid := rfl
@[simp] theorem writeResult_pending (m : Message) (s : State) : (writeResult m s).pending = s.pending := rfl
@[simp] theorem writeResult_readData (m : Message) (s : State) : (writeResult m s).readData = s.readData := rfl
@[simp] theorem writeResult_freeIndex (m : Message) (s : State) : (writeResult m s).freeIndex = s.freeIndex := rfl
@[simp] theorem writeResult_resetCount (m : Message) (s : State) : (writeResult m s).resetCount = s.resetCount := rfl

/-! ### acceptMessage -/

@[simp] theorem acceptMessage_status (m : Message) (s : State) :
    (acceptMessage m s).status = { s.status with crcOk := true, err := .ok, stage := .none, busy := false } := rfl
@[simp] theorem acceptMessage_cfg (m : Message) (s : State) : (acceptMessage m s).cfg = s.cfg := rfl
@[simp] theorem acceptMessage_msgCtrl (m : Message) (s : State) : (acceptMessage m s).msgCtrl = s.msgCtrl := rfl
@[simp] theorem acceptMessage_msgPayload (m : Message) (s : State) : (acceptMessage m s).msgPayload = s.msgPayload := rfl
@[simp] theorem acceptMessage_decSsb (m : Message) (s : State) : (acceptMessage m s).decSsb = s.decSsb := rfl
@[simp] theorem acceptMessage_resCtrl (m : Message) (s : State) : (acceptMessage m s).resCtrl = m.ctrlWord := rfl
@[simp] theorem acceptMessage_resPayload (m : Message) (s : State) : (acceptMessage m s).resPayload = m.payloadWord := rfl
@[simp] theorem acceptMessage_packed (m : Message) (s : State) : (acceptMessage m s).packed = s.packed := rfl
@[simp] theorem acceptMessage_code (m : Message) (s : State) : (acceptMessage m s).code = s.code := rfl
@[simp] theorem acceptMessage_grid (m : Message) (s : State) : (acceptMessage m s).grid = s.grid := rfl
@[simp] theorem acceptMessage_pending (m : Message) (s : State) : (acceptMessage m s).pending = s.pending := rfl
@[simp] theorem acceptMessage_readData (m : Message) (s : State) : (acceptMessage m s).readData = s.readData := rfl
@[simp] theorem acceptMessage_freeIndex (m : Message) (s : State) : (acceptMessage m s).freeIndex = s.freeIndex := rfl
@[simp] theorem acceptMessage_resetCount (m : Message) (s : State) : (acceptMessage m s).resetCount = s.resetCount := rfl

/-! ### writeGridWord -/

@[simp] theorem writeGridWord_status (s : State) (a : Nat) (w : Word) : (writeGridWord s a w).status = s.status := rfl
@[simp] theorem writeGridWord_cfg (s : State) (a : Nat) (w : Word) : (writeGridWord s a w).cfg = s.cfg := rfl
@[simp] theorem writeGridWord_msgCtrl (s : State) (a : Nat) (w : Word) : (writeGridWord s a w).msgCtrl = s.msgCtrl := rfl
@[simp] theorem writeGridWord_msgPayload (s : State) (a : Nat) (w : Word) :
    (writeGridWord s a w).msgPayload = s.msgPayload := rfl
@[simp] theorem writeGridWord_decSsb (s : State) (a : Nat) (w : Word) : (writeGridWord s a w).decSsb = s.decSsb := rfl
@[simp] theorem writeGridWord_resCtrl (s : State) (a : Nat) (w : Word) : (writeGridWord s a w).resCtrl = s.resCtrl := rfl
@[simp] theorem writeGridWord_resPayload (s : State) (a : Nat) (w : Word) :
    (writeGridWord s a w).resPayload = s.resPayload := rfl
@[simp] theorem writeGridWord_packed (s : State) (a : Nat) (w : Word) : (writeGridWord s a w).packed = s.packed := rfl
@[simp] theorem writeGridWord_code (s : State) (a : Nat) (w : Word) : (writeGridWord s a w).code = s.code := rfl
@[simp] theorem writeGridWord_grid (s : State) (a : Nat) (w : Word) : (writeGridWord s a w).grid = s.grid.writeWord a w := rfl
@[simp] theorem writeGridWord_pending (s : State) (a : Nat) (w : Word) : (writeGridWord s a w).pending = s.pending := rfl
@[simp] theorem writeGridWord_readData (s : State) (a : Nat) (w : Word) : (writeGridWord s a w).readData = s.readData := rfl
@[simp] theorem writeGridWord_freeIndex (s : State) (a : Nat) (w : Word) :
    (writeGridWord s a w).freeIndex = s.freeIndex := rfl
@[simp] theorem writeGridWord_resetCount (s : State) (a : Nat) (w : Word) :
    (writeGridWord s a w).resetCount = s.resetCount := rfl

/-! ### memWrite -/

@[simp] theorem memWrite_status (s : State) (i : Nat) (x : Sample) : (memWrite s i x).status = s.status := rfl
@[simp] theorem memWrite_cfg (s : State) (i : Nat) (x : Sample) : (memWrite s i x).cfg = s.cfg := rfl
@[simp] theorem memWrite_msgCtrl (s : State) (i : Nat) (x : Sample) : (memWrite s i x).msgCtrl = s.msgCtrl := rfl
@[simp] theorem memWrite_msgPayload (s : State) (i : Nat) (x : Sample) : (memWrite s i x).msgPayload = s.msgPayload := rfl
@[simp] theorem memWrite_decSsb (s : State) (i : Nat) (x : Sample) : (memWrite s i x).decSsb = s.decSsb := rfl
@[simp] theorem memWrite_resCtrl (s : State) (i : Nat) (x : Sample) : (memWrite s i x).resCtrl = s.resCtrl := rfl
@[simp] theorem memWrite_resPayload (s : State) (i : Nat) (x : Sample) : (memWrite s i x).resPayload = s.resPayload := rfl
@[simp] theorem memWrite_packed (s : State) (i : Nat) (x : Sample) : (memWrite s i x).packed = s.packed := rfl
@[simp] theorem memWrite_code (s : State) (i : Nat) (x : Sample) : (memWrite s i x).code = s.code := rfl
@[simp] theorem memWrite_grid (s : State) (i : Nat) (x : Sample) :
    (memWrite s i x).grid = (s.grid.writeWord (elementOffset i) x.re).writeWord (elementOffset i + 4) x.im := rfl
@[simp] theorem memWrite_pending (s : State) (i : Nat) (x : Sample) : (memWrite s i x).pending = s.pending := rfl
@[simp] theorem memWrite_readData (s : State) (i : Nat) (x : Sample) : (memWrite s i x).readData = s.readData := rfl
@[simp] theorem memWrite_freeIndex (s : State) (i : Nat) (x : Sample) : (memWrite s i x).freeIndex = s.freeIndex := rfl
@[simp] theorem memWrite_resetCount (s : State) (i : Nat) (x : Sample) : (memWrite s i x).resetCount = s.resetCount := rfl

/-! ### drawElement -/

@[simp] theorem drawElement_status (s : State) (i : Nat) : (drawElement s i).status = s.status := rfl
@[simp] theorem drawElement_cfg (s : State) (i : Nat) : (drawElement s i).cfg = s.cfg := rfl
@[simp] theorem drawElement_msgCtrl (s : State) (i : Nat) : (drawElement s i).msgCtrl = s.msgCtrl := rfl
@[simp] theorem drawElement_msgPayload (s : State) (i : Nat) : (drawElement s i).msgPayload = s.msgPayload := rfl
@[simp] theorem drawElement_decSsb (s : State) (i : Nat) : (drawElement s i).decSsb = s.decSsb := rfl
@[simp] theorem drawElement_resCtrl (s : State) (i : Nat) : (drawElement s i).resCtrl = s.resCtrl := rfl
@[simp] theorem drawElement_resPayload (s : State) (i : Nat) : (drawElement s i).resPayload = s.resPayload := rfl
@[simp] theorem drawElement_packed (s : State) (i : Nat) : (drawElement s i).packed = s.packed := rfl
@[simp] theorem drawElement_code (s : State) (i : Nat) : (drawElement s i).code = s.code := rfl
@[simp] theorem drawElement_pending (s : State) (i : Nat) : (drawElement s i).pending = s.pending := rfl
@[simp] theorem drawElement_readData (s : State) (i : Nat) : (drawElement s i).readData = s.readData := rfl
@[simp] theorem drawElement_freeIndex (s : State) (i : Nat) : (drawElement s i).freeIndex = s.freeIndex + 2 := rfl
@[simp] theorem drawElement_resetCount (s : State) (i : Nat) : (drawElement s i).resetCount = s.resetCount := rfl

/-! ### drawResult -/

@[simp] theorem drawResult_status (s : State) : (drawResult s).status = s.status := rfl
@[simp] theorem drawResult_cfg (s : State) : (drawResult s).cfg = s.cfg := rfl
@[simp] theorem drawResult_msgCtrl (s : State) : (drawResult s).msgCtrl = s.msgCtrl := rfl
@[simp] theorem drawResult_msgPayload (s : State) : (drawResult s).msgPayload = s.msgPayload := rfl
@[simp] theorem drawResult_decSsb (s : State) : (drawResult s).decSsb = s.decSsb := rfl
@[simp] theorem drawResult_resCtrl (s : State) : (drawResult s).resCtrl = Config.freeWord s.freeIndex &&& ctrlMask := rfl
@[simp] theorem drawResult_resPayload (s : State) :
    (drawResult s).resPayload = Config.freeWord (s.freeIndex + 1) &&& payloadMask := rfl
@[simp] theorem drawResult_packed (s : State) : (drawResult s).packed = s.packed := rfl
@[simp] theorem drawResult_code (s : State) : (drawResult s).code = s.code := rfl
@[simp] theorem drawResult_grid (s : State) : (drawResult s).grid = s.grid := rfl
@[simp] theorem drawResult_pending (s : State) : (drawResult s).pending = s.pending := rfl
@[simp] theorem drawResult_readData (s : State) : (drawResult s).readData = s.readData := rfl
@[simp] theorem drawResult_freeIndex (s : State) : (drawResult s).freeIndex = s.freeIndex + 2 := rfl
@[simp] theorem drawResult_resetCount (s : State) : (drawResult s).resetCount = s.resetCount := rfl

/-! ### platformReset -/

@[simp] theorem platformReset_status (s : State) : (platformReset s).status = .reset := rfl
@[simp] theorem platformReset_cfg (s : State) : (platformReset s).cfg = 0#32 := rfl
@[simp] theorem platformReset_msgCtrl (s : State) : (platformReset s).msgCtrl = 0#32 := rfl
@[simp] theorem platformReset_msgPayload (s : State) : (platformReset s).msgPayload = 0#32 := rfl
@[simp] theorem platformReset_decSsb (s : State) : (platformReset s).decSsb = 0#32 := rfl
@[simp] theorem platformReset_resCtrl (s : State) : (platformReset s).resCtrl = 0#32 := rfl
@[simp] theorem platformReset_resPayload (s : State) : (platformReset s).resPayload = 0#32 := rfl
@[simp] theorem platformReset_packed (s : State) : (platformReset s).packed = 0#32 := rfl
@[simp] theorem platformReset_code (s : State) : (platformReset s).code = none := rfl
@[simp] theorem platformReset_grid (s : State) : (platformReset s).grid = [] := rfl
@[simp] theorem platformReset_pending (s : State) : (platformReset s).pending = s.pending := rfl
@[simp] theorem platformReset_readData (s : State) : (platformReset s).readData = s.readData := rfl
@[simp] theorem platformReset_freeIndex (s : State) : (platformReset s).freeIndex = s.freeIndex := rfl
@[simp] theorem platformReset_resetCount (s : State) : (platformReset s).resetCount = s.resetCount + 1 := rfl

/-! ### raise -/

/-- An error with no outputs to lose writes ERR and STAGE and nothing else. -/
theorem raise_nothing (e : ErrorCode) (st : StageCode) (s : State) :
    raise .nothing e st s = { s with status := s.status.finish e st } := by
  unfold raise
  split <;> rfl

/-- An error before any stage, or one of INIT, writes ERR and STAGE and nothing else. -/
theorem raise_early (out : Outputs) (e : ErrorCode) (st : StageCode) (s : State) (h : st.isPipeline = false) :
    raise out e st s = { s with status := s.status.finish e st } := by
  simp [raise, h]

/-- An error at a pipeline stage of DECODE also sets RES_CTRL and RES_PAYLOAD to free words under their masks. -/
theorem raise_decodeResult (e : ErrorCode) (st : StageCode) (s : State) (h : st.isPipeline = true) :
    raise .decodeResult e st s = { drawResult s with status := s.status.finish e st } := by
  simp [raise, h, drawOutputs]

end Sys2Proof.Machine
end

