-- ==== Sys2Proof/Laws/Memory.lean ====
section
/-! SUPPORT. The grid memory: what a read gives after a write, and that every write keeps the canonical form. -/

namespace Sys2Proof.Machine

/-! ### One byte -/

theorem Memory.read?_write (m : Memory) (a b : Nat) (x : Byte) :
    (m.write a x).read? b = if b = a then some x else m.read? b := by
  induction m with
  | nil => simp [Memory.write, Memory.read?]
  | cons c m ih =>
    obtain ⟨a', y⟩ := c
    simp only [Memory.write]
    split
    · simp [Memory.read?]
    · split
      · rename_i h; subst h
        by_cases hb : b = a <;> simp [Memory.read?, hb]
      · rename_i h1 h2
        simp only [Memory.read?, ih]
        by_cases hb : b = a
        · subst hb; simp [h2]
        · simp [hb]

theorem Memory.wfFrom_write {m : Memory} {lo a : Nat} (x : Byte) (h : Memory.wfFrom lo m = true) (hlo : lo ≤ a)
    (ha : a < Config.gridEnd) : Memory.wfFrom lo (m.write a x) = true := by
  induction m generalizing lo with
  | nil => simp [Memory.write, Memory.wfFrom, hlo, ha]
  | cons c m ih =>
    obtain ⟨a', y⟩ := c
    simp only [Memory.wfFrom, Bool.and_eq_true, decide_eq_true_eq] at h
    obtain ⟨⟨h1, h2⟩, h3⟩ := h
    simp only [Memory.write]
    split
    · rename_i hlt
      simp [Memory.wfFrom, hlo, ha, h2, h3, Nat.succ_le_of_lt hlt]
    · split
      · rename_i he; subst he
        simp [Memory.wfFrom, h1, h2, h3]
      · rename_i h4 h5
        simp [Memory.wfFrom, h1, h2, ih h3 (by omega)]

theorem Memory.wf_write {m : Memory} {a : Nat} (x : Byte) (h : m.wf = true) (hlo : Config.gridBase ≤ a)
    (ha : a < Config.gridEnd) : (m.write a x).wf = true := Memory.wfFrom_write x h hlo ha

/-! ### One word -/

theorem Memory.wf_writeWord {m : Memory} {a : Nat} (w : Word) (h : m.wf = true) (hlo : Config.gridBase ≤ a)
    (ha : a + 3 < Config.gridEnd) : (m.writeWord a w).wf = true := by
  unfold Memory.writeWord
  exact Memory.wf_write _ (Memory.wf_write _ (Memory.wf_write _ (Memory.wf_write _ h hlo (by omega)) (by omega) (by omega))
    (by omega) (by omega)) (by omega) (by omega)

theorem gridByte_writeGridWord (s : State) (a b : Nat) (w : Word) :
    gridByte (writeGridWord s a w) b =
      if b = a + 3 then w.extractLsb' 24 8 else if b = a + 2 then w.extractLsb' 16 8
      else if b = a + 1 then w.extractLsb' 8 8 else if b = a then w.extractLsb' 0 8 else gridByte s b := by
  simp only [gridByte, writeGridWord_grid, writeGridWord_resetCount, Memory.writeWord, Memory.read?_write]
  split
  · rename_i h
    split at h <;> simp_all
    split at h <;> simp_all
    split at h <;> simp_all
    split at h <;> simp_all
  · rename_i h
    split at h <;> simp_all
    split at h <;> simp_all
    split at h <;> simp_all
    split at h <;> simp_all

/-- A byte outside a written word is as before. -/
theorem gridByte_writeGridWord_of_not_mem (s : State) (a b : Nat) (w : Word) (h : b < a ∨ a + 4 ≤ b) :
    gridByte (writeGridWord s a w) b = gridByte s b := by
  rw [gridByte_writeGridWord, if_neg (by omega), if_neg (by omega), if_neg (by omega), if_neg (by omega)]

/-- The grid bytes are a function of the grid's storage and the reset count. -/
theorem gridByte_congr {s t : State} (hg : s.grid = t.grid) (hr : s.resetCount = t.resetCount) (a : Nat) :
    gridByte s a = gridByte t a := by
  simp [gridByte, hg, hr]

theorem memRead_congr {s t : State} (hg : s.grid = t.grid) (hr : s.resetCount = t.resetCount) (i : Nat) :
    memRead s i = memRead t i := by
  simp [memRead, readGridWord, gridByte_congr hg hr]

/-- A word is its four bytes. -/
theorem word_of_bytes (w : Word) :
    w.extractLsb' 24 8 ++ w.extractLsb' 16 8 ++ w.extractLsb' 8 8 ++ w.extractLsb' 0 8 = w := by
  apply BitVec.eq_of_getLsbD_eq
  intro i hi
  simp only [BitVec.getLsbD_append, BitVec.getLsbD_extractLsb']
  by_cases h1 : i < 8
  · simp [h1]
  · by_cases h2 : i - 8 < 8
    · simp [h1, h2]; congr 1; omega
    · by_cases h3 : i - 8 - 8 < 8
      · simp [h1, h2, h3]; congr 1; omega
      · simp [h1, h2, h3, show i - 8 - 8 - 8 < 8 by omega]; congr 1; omega

/-- A word read where it was written is the word. -/
theorem readGridWord_writeGridWord_same (s : State) (a : Nat) (w : Word) : readGridWord (writeGridWord s a w) a = w := by
  unfold readGridWord
  simp only [gridByte_writeGridWord]
  simpa using word_of_bytes w

/-- A word read elsewhere is as before. -/
theorem readGridWord_writeGridWord_other (s : State) (a b : Nat) (w : Word) (h : b + 4 ≤ a ∨ a + 4 ≤ b) :
    readGridWord (writeGridWord s a w) b = readGridWord s b := by
  unfold readGridWord
  rw [gridByte_writeGridWord_of_not_mem _ _ _ _ (by omega), gridByte_writeGridWord_of_not_mem _ _ _ _ (by omega),
    gridByte_writeGridWord_of_not_mem _ _ _ _ (by omega), gridByte_writeGridWord_of_not_mem _ _ _ _ (by omega)]

/-! ### One element -/

/-- The element read after a write is the sample written, or, at another index, as before. -/
theorem memRead_memWrite (s : State) (i j : Nat) (x : Sample) :
    memRead (memWrite s i x) j = if j = i then x else memRead s j := by
  unfold memRead memWrite
  by_cases h : j = i
  · subst h
    simp only [if_true]
    rw [readGridWord_writeGridWord_other _ _ _ _ (by omega), readGridWord_writeGridWord_same,
      readGridWord_writeGridWord_same]
  · simp only [if_neg h, elementOffset]
    rw [readGridWord_writeGridWord_other _ _ _ _ (by omega), readGridWord_writeGridWord_other _ _ _ _ (by omega),
      readGridWord_writeGridWord_other _ _ _ _ (by omega), readGridWord_writeGridWord_other _ _ _ _ (by omega)]

/-- A byte outside a written element is as before. -/
theorem gridByte_memWrite_of_not_mem (s : State) (i b : Nat) (x : Sample)
    (h : b < elementOffset i ∨ elementOffset i + 8 ≤ b) : gridByte (memWrite s i x) b = gridByte s b := by
  unfold memWrite
  rw [gridByte_writeGridWord_of_not_mem _ _ _ _ (by omega), gridByte_writeGridWord_of_not_mem _ _ _ _ (by omega)]

theorem elementOffset_range {i : Nat} (hi : i < Config.gridLen) :
    Config.gridBase ≤ elementOffset i ∧ elementOffset i + 7 < Config.gridEnd := by
  simp only [Config.gridLen, Config.gridBase, Config.gridEnd, elementOffset] at *
  omega

theorem wf_memWrite {s : State} {i : Nat} (x : Sample) (h : s.grid.wf = true) (hi : i < Config.gridLen) :
    (memWrite s i x).grid.wf = true := by
  have ho := elementOffset_range hi
  rw [memWrite_grid]
  exact Memory.wf_writeWord _ (Memory.wf_writeWord _ h (by omega) (by omega)) (by omega) (by omega)

theorem wf_drawElement {s : State} {i : Nat} (h : s.grid.wf = true) (hi : i < Config.gridLen) :
    (drawElement s i).grid.wf = true := wf_memWrite _ h hi

/-- The memory after reset is in canonical form. -/
theorem wf_reset : State.reset.grid.wf = true := rfl

end Sys2Proof.Machine
end

