-- ==== Sys2Proof/Laws/Mapping.lean ====
section
/-! SUPPORT. What the grid writer leaves in every element and byte, and what the reader reads (spec/45_re_mapping.md R257, R258). -/

namespace Sys2Proof.Machine

/-! ### A list of element writes -/

/-- The writes of a list of elements, in order. -/
def writeElements (l : List (Nat × Sample)) (s : State) : State := l.foldl (fun t w => memWrite t w.1 w.2) s

theorem writeElements_eq (l : List (Nat × Sample)) (s : State) :
    writeElements l s = { s with grid := (writeElements l s).grid } := by
  induction l generalizing s with
  | nil => rfl
  | cons w l ih =>
    have := ih (memWrite s w.1 w.2)
    simp only [writeElements, List.foldl_cons] at this ⊢
    rw [this]
    rfl

theorem writeElements_grid_wf {l : List (Nat × Sample)} {s : State} (h : s.grid.wf = true)
    (hl : ∀ w ∈ l, w.1 < Config.gridLen) : (writeElements l s).grid.wf = true := by
  induction l generalizing s with
  | nil => exact h
  | cons w l ih =>
    exact ih (wf_memWrite _ h (hl w (by simp))) fun w hw => hl w (by simp [hw])

theorem memRead_writeElements_of_not_mem {l : List (Nat × Sample)} {s : State} {i : Nat} (h : ∀ w ∈ l, w.1 ≠ i) :
    memRead (writeElements l s) i = memRead s i := by
  induction l generalizing s with
  | nil => rfl
  | cons w l ih =>
    have := ih (s := memWrite s w.1 w.2) fun w hw => h w (by simp [hw])
    simp only [writeElements, List.foldl_cons] at this ⊢
    rw [this, memRead_memWrite, if_neg (fun he => h w (by simp) he.symm)]

theorem gridByte_writeElements_of_not_mem {l : List (Nat × Sample)} {s : State} {a : Nat}
    (h : ∀ w ∈ l, a < elementOffset w.1 ∨ elementOffset w.1 + 8 ≤ a) :
    gridByte (writeElements l s) a = gridByte s a := by
  induction l generalizing s with
  | nil => rfl
  | cons w l ih =>
    have := ih (s := memWrite s w.1 w.2) fun w hw => h w (by simp [hw])
    simp only [writeElements, List.foldl_cons] at this ⊢
    rw [this, gridByte_memWrite_of_not_mem _ _ _ _ (h w (by simp))]

/-- With no element written twice, each reads as the sample written to it. -/
theorem memRead_writeElements_of_mem {l : List (Nat × Sample)} {s : State} {w : Nat × Sample}
    (hn : (l.map Prod.fst).Nodup) (hw : w ∈ l) : memRead (writeElements l s) w.1 = w.2 := by
  induction l generalizing s with
  | nil => simp at hw
  | cons c l ih =>
    simp only [List.map_cons, List.nodup_cons] at hn
    rcases List.mem_cons.1 hw with rfl | hw
    · have : memRead (writeElements l (memWrite s w.1 w.2)) w.1 = memRead (memWrite s w.1 w.2) w.1 :=
        memRead_writeElements_of_not_mem fun u hu he => hn.1 (by rw [← he]; exact List.mem_map_of_mem hu)
      simp only [writeElements, List.foldl_cons] at this ⊢
      rw [this, memRead_memWrite, if_pos rfl]
    · exact ih hn.2 hw

/-! ### The writer -/

theorem reMap_eq_writeElements (v : Nat) (S : Vector Sample 432) (s : State) :
    reMap v S s = writeElements ((pbchRE v).zip S.toList) s := rfl

/-- The writer changes the grid's storage and no other field. -/
theorem reMap_eq (v : Nat) (S : Vector Sample 432) (s : State) : reMap v S s = { s with grid := (reMap v S s).grid } :=
  writeElements_eq _ _

theorem mem_zip_pbchRE {v : Nat} {S : Vector Sample 432} {w : Nat × Sample} (h : w ∈ (pbchRE v).zip S.toList) :
    w.1 ∈ pbchRE v := (List.of_mem_zip (a := w.1) (b := w.2) h).1

theorem reMap_grid_wf {v : Nat} {S : Vector Sample 432} {s : State} (h : s.grid.wf = true) :
    (reMap v S s).grid.wf = true :=
  writeElements_grid_wf h fun _ hw => pbchRE_lt (mem_zip_pbchRE hw)

/-- Symbol n is in element PBCH_RE(v)[n]. -/
theorem memRead_reMap {v : Nat} (hv : v < 4) (S : Vector Sample 432) (s : State) (n : Fin 432) :
    memRead (reMap v S s) ((pbchRE v).getD n 0) = S[n] := by
  have hl := pbchRE_length hv
  have hz : ((pbchRE v).zip S.toList).map Prod.fst = pbchRE v := List.map_fst_zip (by simp [hl])
  have hmem : ((pbchRE v).getD n 0, S[n]) ∈ (pbchRE v).zip S.toList := by
    rw [List.mem_iff_getElem]
    refine ⟨n, by simp [hl], ?_⟩
    have : n.val < (pbchRE v).length := by omega
    rw [List.getElem_zip, List.getD_eq_getElem _ _ this]
    rfl
  have hr := memRead_writeElements_of_mem (s := s) (by rw [hz]; exact pbchRE_nodup v) hmem
  rw [reMap_eq_writeElements]
  exact hr

/-- Every element that is not in the list is as before. -/
theorem memRead_reMap_of_not_mem {v i : Nat} (S : Vector Sample 432) (s : State) (h : i ∉ pbchRE v) :
    memRead (reMap v S s) i = memRead s i :=
  memRead_writeElements_of_not_mem fun _ hw he => h (he ▸ mem_zip_pbchRE hw)

/-- Every byte outside the listed elements is as before. -/
theorem gridByte_reMap_of_not_mem {v a : Nat} (S : Vector Sample 432) (s : State)
    (h : ∀ i ∈ pbchRE v, a < elementOffset i ∨ elementOffset i + 8 ≤ a) :
    gridByte (reMap v S s) a = gridByte s a :=
  gridByte_writeElements_of_not_mem fun _ hw => h _ (mem_zip_pbchRE hw)

/-! ### The reader -/

@[simp] theorem getElem_reDemap (v : Nat) (s : State) (n : Nat) (h : n < 432) :
    (reDemap v s)[n] = memRead s ((pbchRE v).getD n 0) := by
  simp [reDemap]

theorem getD_pbchRE_mem {v : Nat} (hv : v < 4) (n : Fin 432) : (pbchRE v).getD n 0 ∈ pbchRE v := by
  have : n.val < (pbchRE v).length := by rw [pbchRE_length hv]; exact n.isLt
  rw [List.getD_eq_getElem _ _ this]
  exact List.getElem_mem this

/-- The reader's samples depend only on the listed elements. -/
theorem reDemap_congr {v : Nat} (hv : v < 4) {s t : State} (h : ∀ i ∈ pbchRE v, memRead s i = memRead t i) :
    reDemap v s = reDemap v t := by
  apply Vector.ext
  intro n hn
  rw [getElem_reDemap, getElem_reDemap]
  exact h _ (getD_pbchRE_mem hv ⟨n, hn⟩)

/-! ### Free values -/

/-- Setting elements to free words changes the grid's storage and the count of free words, and no other field. -/
theorem drawElements_eq (l : List Nat) (s : State) :
    l.foldl drawElement s =
      { s with grid := (l.foldl drawElement s).grid, freeIndex := s.freeIndex + 2 * l.length } := by
  induction l generalizing s with
  | nil => rfl
  | cons i l ih =>
    simp only [List.foldl_cons, List.length_cons]
    rw [ih (drawElement s i)]
    simp [drawElement, memWrite, writeGridWord]
    omega

end Sys2Proof.Machine
end

