-- ==== Sys2Proof/Laws/Packer.lean ====
section
/-! SUPPORT. The packer and its inverse, bit by bit (spec/40_packer_interleaver.md R133, R134), for every interleaver table that is a
permutation. -/

namespace Sys2Proof.Machine

theorem atLogical_placeBits (G : Fin 32 → Fin 32) (hG : Function.Injective G) (f : Fin 32 → Bool) (l : List (Fin 32))
    (A : BitVec 32) (j : Fin 32) :
    atLogical G (l.foldl (fun A j => setBit A (G j) (f j)) A) j = if j ∈ l then f j else atLogical G A j := by
  induction l generalizing A with
  | nil => simp
  | cons i l ih =>
    simp only [List.foldl_cons, ih, List.mem_cons]
    by_cases hj : j ∈ l
    · simp [hj]
    · simp only [hj, if_false, or_false, atLogical]
      rw [getLsbD_setBit _ _ _ _ (G i).isLt]
      by_cases hi : j = i
      · subst hi; simp
      · have : ¬(G j).val = (G i).val := fun h => hi (hG (Fin.ext h))
        simp [hi, this]

/-- Logical index j of a packed vector holds the message's bit j. -/
theorem atLogical_pack {G : Fin 32 → Fin 32} (hG : Function.Injective G) (lmax : Lmax) (m : Message) (j : Fin 32) :
    atLogical G (pack G lmax m) j = logicalBit lmax m j := by
  rw [pack, atLogical_placeBits G hG (fun j => logicalBit lmax m j)]
  simp

/-- Two vectors that agree at every logical index are equal. -/
theorem eq_of_atLogical {G : Fin 32 → Fin 32} (hG : Function.Injective G) {A B : BitVec 32}
    (h : ∀ j, atLogical G A j = atLogical G B j) : A = B := by
  apply BitVec.eq_of_getLsbD_eq
  intro i hi
  obtain ⟨j, hj⟩ := (Finite.injective_iff_surjective.1 hG) ⟨i, hi⟩
  have := h j
  simpa [atLogical, hj] using this

theorem payloadIndex_val (i : Nat) (hi : i < 24) :
    (payloadIndex i).val = if i = 0 then 14 else if i ≤ 6 then i + 3 else i + 8 := by
  unfold payloadIndex
  split
  · rfl
  · split
    · simp [Fin.ofNat]; omega
    · simp [Fin.ofNat]; omega

/-- The logical index of payload bit i holds it. -/
theorem logicalBit_payloadIndex (lmax : Lmax) (m : Message) (i : Nat) (hi : i < 24) :
    logicalBit lmax m (payloadIndex i) = m.payload.getLsbD i := by
  rw [payloadIndex_val i hi]
  unfold logicalBit
  by_cases h0 : i = 0
  · subst h0; simp
  · by_cases h6 : i ≤ 6
    · simp only [h0, if_false, h6, if_true]
      rw [if_neg (by omega), if_pos (by omega)]
      congr 1
    · simp only [h0, if_false, h6]
      rw [if_neg (by omega), if_neg (by omega), if_neg (by omega), if_neg (by omega), if_neg (by omega), if_neg (by omega),
        if_neg (by omega)]
      congr 1

@[simp] theorem unpack_sfn4_bit (G : Fin 32 → Fin 32) (lmax : Lmax) (A : BitVec 32) (issb : BitVec 6) (b : Nat) :
    (unpack G lmax A issb).sfn4.getLsbD b = (decide (b < 4) && atLogical G A (Fin.ofNat 32 (3 - b))) := by
  simp [unpack]

@[simp] theorem unpack_payload_bit (G : Fin 32 → Fin 32) (lmax : Lmax) (A : BitVec 32) (issb : BitVec 6) (i : Nat) :
    (unpack G lmax A issb).payload.getLsbD i = (decide (i < 24) && atLogical G A (payloadIndex i)) := by
  simp [unpack]

@[simp] theorem unpack_hrf (G : Fin 32 → Fin 32) (lmax : Lmax) (A : BitVec 32) (issb : BitVec 6) :
    (unpack G lmax A issb).hrf = atLogical G A 10 := rfl

/-- The word RES_CTRL gets has the reserved bits 0. -/
theorem ctrlWord_reserved (m : Message) : m.ctrlWord &&& ~~~ctrlMask = 0#32 := by
  apply BitVec.eq_of_getLsbD_eq
  intro i hi
  interval_cases i <;> simp [Message.ctrlWord, ctrlMask]

/-- The word RES_PAYLOAD gets has the reserved bits 0. -/
theorem payloadWord_reserved (m : Message) : m.payloadWord &&& ~~~payloadMask = 0#32 := by
  apply BitVec.eq_of_getLsbD_eq
  intro i hi
  interval_cases i <;> simp [Message.payloadWord, payloadMask]

/-- A word under a mask has no bit outside it. -/
theorem and_mask_reserved (w m : Word) : w &&& m &&& ~~~m = 0#32 := by
  rw [BitVec.and_assoc, BitVec.and_not_self]
  exact BitVec.and_zero

end Sys2Proof.Machine
end

