-- ==== Sys2Proof/Laws/Scrambler.lean ====
section
/-! SUPPORT. Stage 1 and stage 2, bit by bit (spec/42_scrambling.md R185, R189, R190). -/

namespace Sys2Proof.Machine

/-- `j(p)`, the number of positions below `p` that are not excluded (R185). -/
def keptBelow (G : Fin 32 → Fin 32) : Nat → Nat
  | 0 => 0
  | p + 1 => keptBelow G p + if excluded G p then 0 else 1

theorem keptBelow_le (G : Fin 32 → Fin 32) (p : Nat) : keptBelow G p ≤ p := by
  induction p with
  | zero => simp [keptBelow]
  | succ p ih => simp only [keptBelow]; split <;> omega

/-- The bit stage 1 leaves at physical position p (R185). -/
def scr1Bit (G : Fin 32 → Fin 32) (prbs : Nat → Nat → Bool) (nid : Nat) (lmax : Lmax) (A : BitVec 32) (p : Nat) : Bool :=
  if excluded G p then A.getLsbD p
  else A.getLsbD p ^^ prbs nid (lmax.stride * stage1Selector G A + keptBelow G p)

theorem scr1Position_bit (G : Fin 32 → Fin 32) (prbs : Nat → Nat → Bool) (A : BitVec 32) (acc : BitVec 32 × Cursor)
    (n p : Nat) (hn : n < 32) :
    (scr1Position G prbs A acc n).1.getLsbD p =
      if p = n then (if excluded G n then A.getLsbD n else A.getLsbD n ^^ prbs acc.2.seed acc.2.pos)
      else acc.1.getLsbD p := by
  unfold scr1Position
  by_cases hx : excluded G n = true
  · simp only [hx, if_true, getLsbD_setBit _ _ _ _ hn]
  · simp only [hx, Bool.false_eq_true, if_false, getLsbD_setBit _ _ _ _ hn, cursorBit]

theorem scr1Position_cursor (G : Fin 32 → Fin 32) (prbs : Nat → Nat → Bool) (A : BitVec 32) (acc : BitVec 32 × Cursor)
    (n : Nat) :
    (scr1Position G prbs A acc n).2 = cursorAdvance acc.2 (if excluded G n then 0 else 1) := by
  unfold scr1Position
  by_cases hx : excluded G n = true <;> simp [hx, cursorAdvance]

theorem scr1_fold (G : Fin 32 → Fin 32) (prbs : Nat → Nat → Bool) (A : BitVec 32) (start : Cursor) (n : Nat) (hn : n ≤ 32) :
    (∀ p < n, ((List.range n).foldl (scr1Position G prbs A) (0#32, start)).1.getLsbD p =
      if excluded G p then A.getLsbD p else A.getLsbD p ^^ prbs start.seed (start.pos + keptBelow G p)) ∧
    ((List.range n).foldl (scr1Position G prbs A) (0#32, start)).2 = cursorAdvance start (keptBelow G n) := by
  induction n with
  | zero => exact ⟨by simp, by simp [keptBelow, cursorAdvance]⟩
  | succ n ih =>
    obtain ⟨h1, h2⟩ := ih (by omega)
    rw [List.range_succ, List.foldl_append, List.foldl_cons, List.foldl_nil]
    constructor
    · intro p hp
      rw [scr1Position_bit _ _ _ _ _ _ (by omega), h2]
      by_cases hpn : p = n
      · subst hpn
        rw [if_pos rfl]
        rfl
      · rw [if_neg hpn, h1 p (by omega)]
    · rw [scr1Position_cursor, h2]
      simp only [cursorAdvance, keptBelow, Nat.add_assoc]

/-- Stage 1 at physical position p. -/
theorem getLsbD_scr1 (G : Fin 32 → Fin 32) (prbs : Nat → Nat → Bool) (nid : Nat) (lmax : Lmax) (A : BitVec 32) (p : Nat)
    (hp : p < 32) : (scr1 G prbs nid lmax A).getLsbD p = scr1Bit G prbs nid lmax A p := by
  have := (scr1_fold G prbs A (scr1Start G nid lmax A) 32 (Nat.le_refl _)).1 p hp
  rw [scr1, this]
  simp [scr1Bit, scr1Start, cursorAdvance, cursorInit]

theorem stage1Selector_congr {G : Fin 32 → Fin 32} {A B : BitVec 32} (h1 : A.getLsbD (G 1) = B.getLsbD (G 1))
    (h2 : A.getLsbD (G 2) = B.getLsbD (G 2)) : stage1Selector G A = stage1Selector G B := by
  simp only [stage1Selector, h1, h2]

theorem stage1Selector_lt (G : Fin 32 → Fin 32) (A : BitVec 32) : stage1Selector G A < 4 := by
  unfold stage1Selector
  have := Bool.toNat_le (A.getLsbD (G 1))
  have := Bool.toNat_le (A.getLsbD (G 2))
  omega

theorem Lmax.stride_le (l : Lmax) : l.stride ≤ 29 := by cases l <;> decide

theorem stage2Selector_lt (l : Lmax) (ssb : BitVec 6) : stage2Selector l ssb < 8 := by
  cases l <;> simp only [stage2Selector, Lmax.selectorModulus] <;> omega

/-- Stage 2 at element n. -/
theorem getLsbD_scr2 (prbs : Nat → Nat → Bool) (nid : Nat) (lmax : Lmax) (ssb : BitVec 6) (erm : BitVec 864) (n : Nat)
    (hn : n < 864) :
    (scr2 prbs nid lmax ssb erm).getLsbD n = (erm.getLsbD n ^^ prbs nid (stage2Selector lmax ssb * 864 + n)) := by
  simp [scr2, cursorApply, scr2Start, cursorAdvance, cursorInit, hn]

/-- Soft descrambling at element n. -/
theorem getElem_descr2Soft (prbs : Nat → Nat → Bool) (nid : Nat) (lmax : Lmax) (issb : BitVec 6) (sf : Vector Soft 864)
    (n : Nat) (hn : n < 864) :
    (descr2Soft prbs nid lmax issb sf)[n] =
      if prbs nid (stage2Selector lmax issb * 864 + n) then -sf[n] else sf[n] := by
  simp [descr2Soft, cursorBit, scr2Start, cursorAdvance, cursorInit]

end Sys2Proof.Machine
end

