-- ==== Sys2Proof/Laws/Commands.lean ====
section
/-! SUPPORT. What each command can do when it answers a next state, said once (spec/40_packer_interleaver.md R137, R138,
spec/41_codec_commands.md R152 to R155). -/

namespace Sys2Proof.Machine

/-! ### The checks -/

theorem precheckCodec_ok {f : Facet} {s : State} {c : CodecConfig} :
    precheckCodec f s = .ok c ↔
      s.status.ready = true ∧ facetReady f s.status = true ∧ codecConfig s.cfg = some c := by
  unfold precheckCodec
  cases hr : s.status.ready <;> cases hf : facetReady f s.status <;> cases hc : codecConfig s.cfg <;> simp

/-- A check that fails gives one of three errors, none of which is OK (R282). -/
theorem precheckCodec_error {f : Facet} {s : State} {e : ErrorCode} (h : precheckCodec f s = .error e) :
    e = .notReady ∨ e = .facetDisabled ∨ e = .invalidInput := by
  unfold precheckCodec at h
  cases hr : s.status.ready <;> cases hf : facetReady f s.status <;> cases hc : codecConfig s.cfg <;> simp_all

theorem codecConfig_some {cfg : Word} {c : CodecConfig} :
    codecConfig cfg = some c ↔
      nidField cfg ≤ 1007 ∧ Lmax.ofCode (lmaxField cfg) = some c.lmax ∧ c.nid = nidField cfg := by
  unfold codecConfig
  obtain ⟨n, l⟩ := c
  split
  · rename_i h
    simp only [h, Option.map_eq_some_iff, CodecConfig.mk.injEq, true_and]
    constructor
    · rintro ⟨l', h1, h2, rfl⟩
      exact ⟨h1, h2.symm⟩
    · rintro ⟨h1, h2⟩
      exact ⟨l, h1, h2.symm, rfl⟩
  · rename_i h
    simp only [reduceCtorEq, false_iff]
    rintro ⟨h1, -⟩
    exact h h1

/-- The configuration is invalid exactly when N_id exceeds 1007 or the Lmax code is 3 (R150). -/
theorem codecConfig_none {cfg : Word} : codecConfig cfg = none ↔ 1007 < nidField cfg ∨ lmaxField cfg = 3#2 := by
  have hl : Lmax.ofCode (lmaxField cfg) = none ↔ lmaxField cfg = 3#2 := by
    generalize lmaxField cfg = x
    revert x
    decide
  unfold codecConfig
  simp only [Config.maxNid]
  split
  · rename_i h
    rw [Option.map_eq_none_iff, hl]
    constructor
    · exact Or.inr
    · rintro (h' | h')
      · omega
      · exact h'
  · rename_i h
    simp only [true_iff]
    exact Or.inl (by omega)

/-! ### The commands -/

/-- INIT answers a next state always: one of its two errors, or the codec state it builds. -/
theorem initCommand_cases (p : Params) (s : State) :
    initCommand p s = .next (raise .nothing .noFacet .init (tearDown s)) ∧ enEncField s.cfg = false ∧
        enDecField s.cfg = false ∨
      initCommand p s = .next (raise .nothing .initFail .init (tearDown s)) ∨
      ∃ c, initCommand p s = .next (complete (buildCodec c (enEncField s.cfg) (enDecField s.cfg) (tearDown s))) ∧
        initCode p = some c ∧ (enEncField s.cfg || enDecField s.cfg) = true := by
  unfold initCommand
  simp only
  split
  · rename_i h
    exact .inl ⟨rfl, h⟩
  · rename_i h
    right
    split
    · exact .inl rfl
    · split
      · exact .inl rfl
      · rename_i c hc
        refine .inr ⟨c, rfl, hc, ?_⟩
        revert h
        cases enEncField s.cfg <;> cases enDecField s.cfg <;> simp

/-- CODE as INIT builds it has the mother length the block needs (R153, R204). -/
theorem initCode_length {p : Params} {c : PolarCode} (h : initCode p = some c) : c.motherLength = Config.motherLen := by
  unfold initCode at h
  split at h
  · cases h
  · split at h
    · cases h; assumption
    · cases h

/-- With the machine's parameters the code construction succeeds (R204). -/
theorem initCode_params :
    initCode params = some { motherLength := 512, construction := Config.codeConstruction 56 864 9 } := by
  have h : polarOrder 56 864 9 = 9 := by decide +kernel
  simp [initCode, params, defaultGetCode, h]

/-- What ENCODE does: a check's error, the model's stop for a state no run reaches, or the grid written and the command complete. -/
theorem encodeCommand_cases (p : Params) (s : State) :
    (∃ e, precheckCodec .enc s = .error e ∧ encodeCommand p s = .next (raise .nothing e .none s)) ∨
      (s.code = none ∧ encodeCommand p s = .fault .codeAbsent) ∨
      ∃ c code, precheckCodec .enc s = .ok c ∧ s.code = some code ∧
        encodeCommand p s = .next (complete (reMap (refShift c.nid)
          (encodeSymbols p c code (messageOperand s.msgCtrl s.msgPayload)) s)) := by
  unfold encodeCommand
  cases hp : precheckCodec .enc s with
  | error e => exact .inl ⟨e, rfl, rfl⟩
  | ok c =>
    right
    cases hc : s.code with
    | none => exact .inl ⟨rfl, rfl⟩
    | some code => exact .inr ⟨c, code, rfl, rfl, by simp [mappingOk_refShift]⟩

/-- What DECODE does: a check's error, the model's stop for a state no run reaches, a stage's error, or the message accepted. -/
theorem decodeCommand_cases (p : Params) (s : State) :
    (∃ e, precheckCodec .dec s = .error e ∧ decodeCommand p s = .next (raise .nothing e .none (clearCrcOk s))) ∨
      (s.code = none ∧ decodeCommand p s = .fault .codeAbsent) ∨
      ∃ c code, precheckCodec .dec s = .ok c ∧ s.code = some code ∧
        ((∃ e, decodeSamples p c code (ssbOperand s.decSsb) (reDemap (refShift c.nid) s) = .error e ∧
            decodeCommand p s = .next (raise .decodeResult e.1 e.2 (clearCrcOk s))) ∨
          ∃ m, decodeSamples p c code (ssbOperand s.decSsb) (reDemap (refShift c.nid) s) = .ok m ∧
            decodeCommand p s = .next (acceptMessage m (clearCrcOk s))) := by
  have hpre : precheckCodec .dec (clearCrcOk s) = precheckCodec .dec s := rfl
  unfold decodeCommand
  simp only [hpre]
  cases hp : precheckCodec .dec s with
  | error e => exact .inl ⟨e, rfl, rfl⟩
  | ok c =>
    right
    cases hc : s.code with
    | none => exact .inl ⟨rfl, rfl⟩
    | some code =>
      refine .inr ⟨c, code, rfl, rfl, ?_⟩
      simp only [mappingOk_refShift, Bool.true_eq_false, if_false]
      cases hd : decodeSamples p c code (ssbOperand s.decSsb) (reDemap (refShift c.nid) s) with
      | error e => exact .inl ⟨e, rfl, rfl⟩
      | ok m => exact .inr ⟨m, rfl, rfl⟩

/-- The errors DECODE's stages can end with (R292). -/
theorem decodeSamples_error {p : Params} {c : CodecConfig} {code : PolarCode} {issb : BitVec 6} {Y : Vector Sample 432}
    {e : ErrorCode × StageCode} (h : decodeSamples p c code issb Y = .error e) :
    e = (.primitiveFail, .rateMatch) ∨ e = (.primitiveFail, .polar) ∨ e = (.decodeReject, .crc) := by
  unfold decodeSamples at h
  simp only at h
  split at h
  · simp_all
  · split at h
    · simp_all
    · split at h <;> simp_all

/-- What PACK does. -/
theorem packCommand_cases (p : Params) (s : State) :
    (codecConfig s.cfg = none ∧ packCommand p s = .next (raise .nothing .invalidInput .none s)) ∨
      ∃ c, codecConfig s.cfg = some c ∧
        packCommand p s =
          .next (complete { s with packed := pack p.G c.lmax (messageOperand s.msgCtrl s.msgPayload) }) := by
  unfold packCommand
  cases h : codecConfig s.cfg with
  | none => exact .inl ⟨rfl, rfl⟩
  | some c => exact .inr ⟨c, rfl, rfl⟩

/-- What UNPACK does. -/
theorem unpackCommand_cases (p : Params) (s : State) :
    (codecConfig s.cfg = none ∧ unpackCommand p s = .next (raise .nothing .invalidInput .none s)) ∨
      ∃ c, codecConfig s.cfg = some c ∧
        unpackCommand p s = .next (complete (writeResult (unpack p.G c.lmax s.packed (ssbOperand s.decSsb)) s)) := by
  unfold unpackCommand
  cases h : codecConfig s.cfg with
  | none => exact .inl ⟨rfl, rfl⟩
  | some c => exact .inr ⟨c, rfl, rfl⟩

/-- The machine's interleaver table is a permutation (spec/40_packer_interleaver.md R131). -/
theorem defaultG_injective : Function.Injective defaultG := by decide +kernel

/-! ### What a command answers -/

/-- A check that fails ends ENCODE with its error at stage 0, and nothing else changes. -/
theorem encodeCommand_of_error {p : Params} {s : State} {e : ErrorCode} (h : precheckCodec .enc s = .error e) :
    encodeCommand p s = .next { s with status := s.status.finish e .none } := by
  unfold encodeCommand
  rw [h]
  simp only [raise_nothing]

/-- A check that fails ends DECODE with its error at stage 0; only CRC_OK is cleared besides. -/
theorem decodeCommand_of_error {p : Params} {s : State} {e : ErrorCode} (h : precheckCodec .dec s = .error e) :
    decodeCommand p s = .next { clearCrcOk s with status := (clearCrcOk s).status.finish e .none } := by
  have hpre : precheckCodec .dec (clearCrcOk s) = precheckCodec .dec s := rfl
  unfold decodeCommand
  simp only [hpre, h]
  simp only [raise_nothing]

/-- ENCODE past its checks. -/
theorem encodeCommand_of_ok {p : Params} {s : State} {c : CodecConfig} {code : PolarCode}
    (hp : precheckCodec .enc s = .ok c) (hcode : s.code = some code) :
    encodeCommand p s = .next (complete (reMap (refShift c.nid)
      (encodeSymbols p c code (messageOperand s.msgCtrl s.msgPayload)) s)) := by
  rcases encodeCommand_cases p s with ⟨e, hp', _⟩ | ⟨h', _⟩ | ⟨c', code', h1, h2, h⟩
  · rw [hp] at hp'; cases hp'
  · rw [hcode] at h'; cases h'
  · rw [hp] at h1; cases h1; rw [hcode] at h2; cases h2; exact h

/-- DECODE past its checks. -/
theorem decodeCommand_of_ok {p : Params} {s : State} {c : CodecConfig} {code : PolarCode}
    (hp : precheckCodec .dec s = .ok c) (hcode : s.code = some code) :
    decodeCommand p s =
      .next (match decodeSamples p c code (ssbOperand s.decSsb) (reDemap (refShift c.nid) s) with
        | .error e => raise .decodeResult e.1 e.2 (clearCrcOk s)
        | .ok m => acceptMessage m (clearCrcOk s)) := by
  rcases decodeCommand_cases p s with ⟨e, hp', _⟩ | ⟨h', _⟩ | ⟨c', code', h1, h2, h⟩
  · rw [hp] at hp'; cases hp'
  · rw [hcode] at h'; cases h'
  · rw [hp] at h1; cases h1; rw [hcode] at h2; cases h2
    rcases h with ⟨e, h, h'⟩ | ⟨m, h, h'⟩ <;> rw [h, h']

/-- No command is refused, and the only fault is the one for a state with READY = 1 and no CODE. -/
theorem exec_stops {i : Instr} {s : State} :
    (∀ r, exec i s ≠ .refused r) ∧
      ∀ f, exec i s = .fault f → f = .codeAbsent ∧ s.status.ready = true ∧ s.code = none := by
  constructor
  · intro r h
    cases i <;> simp only [exec] at h
    · cases h
    · simp only [execInit] at h
      rcases initCommand_cases params s with ⟨h', _⟩ | h' | ⟨c, h', _⟩ <;> rw [h'] at h <;> cases h
    · simp only [execEncode] at h
      rcases encodeCommand_cases params s with ⟨_, _, h'⟩ | ⟨_, h'⟩ | ⟨_, _, _, _, h'⟩ <;> rw [h'] at h <;> cases h
    · simp only [execDecode] at h
      rcases decodeCommand_cases params s with ⟨_, _, h'⟩ | ⟨_, h'⟩ | ⟨_, _, _, _, ⟨_, _, h'⟩ | ⟨_, _, h'⟩⟩ <;>
        rw [h'] at h <;> cases h
    · simp only [execPack] at h
      rcases packCommand_cases params s with ⟨_, h'⟩ | ⟨c, _, h'⟩ <;> rw [h'] at h <;> cases h
    · simp only [execUnpack] at h
      rcases unpackCommand_cases params s with ⟨_, h'⟩ | ⟨c, _, h'⟩ <;> rw [h'] at h <;> cases h
  · intro f h
    cases i <;> simp only [exec] at h
    · cases h
    · simp only [execInit] at h
      rcases initCommand_cases params s with ⟨h', _⟩ | h' | ⟨c, h', _⟩ <;> rw [h'] at h <;> cases h
    · simp only [execEncode] at h
      cases hp : precheckCodec .enc s with
      | error e => rw [encodeCommand_of_error hp] at h; cases h
      | ok c =>
        cases hc : s.code with
        | some code => rw [encodeCommand_of_ok hp hc] at h; cases h
        | none =>
          rw [encodeCommand, hp] at h
          simp only [hc] at h
          cases h
          exact ⟨rfl, (precheckCodec_ok.1 hp).1, rfl⟩
    · simp only [execDecode] at h
      cases hp : precheckCodec .dec s with
      | error e => rw [decodeCommand_of_error hp] at h; cases h
      | ok c =>
        cases hc : s.code with
        | some code => rw [decodeCommand_of_ok hp hc] at h; cases h
        | none =>
          have hpre : precheckCodec .dec (clearCrcOk s) = precheckCodec .dec s := rfl
          unfold decodeCommand at h
          simp only [hpre, hp, hc] at h
          cases h
          exact ⟨rfl, (precheckCodec_ok.1 hp).1, rfl⟩
    · simp only [execPack] at h
      rcases packCommand_cases params s with ⟨_, h'⟩ | ⟨c, _, h'⟩ <;> rw [h'] at h <;> cases h
    · simp only [execUnpack] at h
      rcases unpackCommand_cases params s with ⟨_, h'⟩ | ⟨c, _, h'⟩ <;> rw [h'] at h <;> cases h

end Sys2Proof.Machine
end

