-- ==== Sys2Proof/Laws/Decode.lean ====
section
/-! SUPPORT. The decoder by cases of the field OP (spec/30_encoding.md R100 to R102). -/

namespace Sys2Proof

/-- The command word's low byte, under the mask, is OP. -/
theorem mask_beq_opField (w : Word) (k : BitVec 8) : (w &&& 0x000000FF#32 == k.setWidth 32) = (opField w == k) := by
  have h : w &&& 0x000000FF#32 = (opField w).setWidth 32 := by
    apply BitVec.eq_of_getLsbD_eq
    intro i hi
    simp only [opField]
    interval_cases i <;> simp
  rw [Bool.eq_iff_iff]
  simp only [beq_iff_eq, h]
  constructor
  · intro h
    have := congrArg (BitVec.setWidth 8) h
    simpa using this
  · rintro rfl
    rfl

/-- The decoder as a case analysis of OP alone. -/
theorem decode_eq (w : Word) :
    decode w =
      if opField w = 0#8 then .ok .nop else if opField w = 1#8 then .ok .init else if opField w = 2#8 then .ok .encode
      else if opField w = 3#8 then .ok .decode else if opField w = 4#8 then .ok .pack
      else if opField w = 5#8 then .ok .unpack else .error (.reservedOpcode (opField w)) := by
  have k0 := mask_beq_opField w 0#8
  have k1 := mask_beq_opField w 1#8
  have k2 := mask_beq_opField w 2#8
  have k3 := mask_beq_opField w 3#8
  have k4 := mask_beq_opField w 4#8
  have k5 := mask_beq_opField w 5#8
  simp only [BitVec.setWidth_ofNat_of_le_of_lt, Nat.reducePow, Nat.reduceLT, Nat.reduceLeDiff] at k0 k1 k2 k3 k4 k5
  simp only [decode, opcodeTable, List.find?, k0, k1, k2, k3, k4, k5]
  generalize opField w = x
  by_cases h0 : x = 0#8
  · simp [h0]
  by_cases h1 : x = 1#8
  · simp [h1]
  by_cases h2 : x = 2#8
  · simp [h2]
  by_cases h3 : x = 3#8
  · simp [h3]
  by_cases h4 : x = 4#8
  · simp [h4]
  by_cases h5 : x = 5#8
  · simp [h5]
  simp [beq_eq_false_iff_ne.2 h0, beq_eq_false_iff_ne.2 h1, beq_eq_false_iff_ne.2 h2, beq_eq_false_iff_ne.2 h3,
    beq_eq_false_iff_ne.2 h4, beq_eq_false_iff_ne.2 h5, h0, h1, h2, h3, h4, h5]

/-- A word decodes to a command exactly when its OP is the command's opcode. -/
theorem decode_eq_ok {w : Word} {i : Instr} : decode w = .ok i ↔ opField w = i.opcode := by
  rw [decode_eq]
  generalize opField w = x
  have key : ∀ x : BitVec 8, ∀ i ∈ [Instr.nop, .init, .encode, .decode, .pack, .unpack],
      (if x = 0#8 then (.ok .nop : Except DecodeError Instr) else if x = 1#8 then .ok .init
        else if x = 2#8 then .ok .encode else if x = 3#8 then .ok .decode else if x = 4#8 then .ok .pack
        else if x = 5#8 then .ok .unpack else .error (.reservedOpcode x)) = .ok i ↔ x = i.opcode := by
    decide +kernel
  exact key x i (by cases i <;> simp)

end Sys2Proof
end

