-- ==== Sys2Proof/Laws/PerInstr.lean ====
section
/-! SUPPORT. The family of lemmas made per instruction: every word of a command carries its opcode, and is well formed
(spec/30_encoding.md R100, R101). -/

namespace Sys2Proof.Laws.EncodedWord

/-- Whatever the ignored bits, the word's OP is the command's and the word is well formed. -/
def Statement (i : Instr) : Prop :=
  ∀ hi : BitVec 24, opField (encodeWith hi i) = i.opcode ∧ commandWordWellFormed (encodeWith hi i) = true

theorem opField_encodeWith (hi : BitVec 24) (i : Instr) : opField (encodeWith hi i) = i.opcode := by
  apply BitVec.eq_of_getLsbD_eq
  intro j hj
  have hj' : j < 32 := by omega
  simp only [opField, encodeWith, BitVec.getLsbD_extractLsb', hj, decide_true, Bool.true_and, Nat.zero_add,
    BitVec.getLsbD_append, if_true]

theorem wellFormed_encodeWith (hi : BitVec 24) (i : Instr) : commandWordWellFormed (encodeWith hi i) = true := by
  have h : (encodeWith hi i).toNat % 256 = i.opcode.toNat := by
    have := congrArg BitVec.toNat (opField_encodeWith hi i)
    simpa [opField, BitVec.extractLsb'_toNat] using this
  unfold commandWordWellFormed
  rw [h]
  cases i <;> decide

theorem nop : Statement .nop := fun hi => ⟨opField_encodeWith hi _, wellFormed_encodeWith hi _⟩
theorem init : Statement .init := fun hi => ⟨opField_encodeWith hi _, wellFormed_encodeWith hi _⟩
theorem encode : Statement .encode := fun hi => ⟨opField_encodeWith hi _, wellFormed_encodeWith hi _⟩
theorem decode : Statement .decode := fun hi => ⟨opField_encodeWith hi _, wellFormed_encodeWith hi _⟩
theorem pack : Statement .pack := fun hi => ⟨opField_encodeWith hi _, wellFormed_encodeWith hi _⟩
theorem unpack : Statement .unpack := fun hi => ⟨opField_encodeWith hi _, wellFormed_encodeWith hi _⟩

end Sys2Proof.Laws.EncodedWord
end

