-- ==== Sys2Proof/Laws/Primitives.lean ====
section
/-! SUPPORT. The default primitives: the shift registers of the Gold sequence run as iterated steps, and the checksum register
(spec/42_scrambling.md R181, spec/43_channel_coding.md R202). -/

namespace Sys2Proof.Machine

/-! ### The scrambling sequence -/

@[simp] theorem evaluated_eq {α : Type} (x : BitVec 31) (k : BitVec 31 → α) : evaluated x k = k x := by
  unfold evaluated
  split
  · rename_i h
    congr 1
    exact BitVec.eq_of_toNat_eq (by simpa using h.symm)
  · rename_i n h
    have h' : n + 1 = x.toNat := h.symm
    rw [h', BitVec.ofNat_toNat, BitVec.setWidth_eq]

theorem shiftPow_eq_iterate (fb : BitVec 31 → Bool) (k : Nat) (x : BitVec 31) : shiftPow fb k x = (shiftIn fb)^[2 ^ k] x := by
  induction k generalizing x with
  | zero => rfl
  | succ k ih => rw [shiftPow, evaluated_eq, ih, ih, ← Function.iterate_add_apply, pow_succ, Nat.mul_two]

theorem shiftDigits_eq_iterate (fb : BitVec 31 → Bool) (n k : Nat) (x : BitVec 31) :
    shiftDigits fb n k x = (shiftIn fb)^[n % 2 ^ k] x := by
  induction k generalizing x with
  | zero => simp [shiftDigits, Nat.mod_one]
  | succ k ih =>
    have hm : n % 2 ^ (k + 1) = n % 2 ^ k + 2 ^ k * (n / 2 ^ k % 2) := by rw [pow_succ, Nat.mod_mul]
    unfold shiftDigits
    split
    · rename_i h
      rw [evaluated_eq, ih, shiftPow_eq_iterate, ← Function.iterate_add_apply, hm, h, Nat.mul_one]
    · rename_i h
      have h0 : n / 2 ^ k % 2 = 0 := by omega
      rw [ih, hm, h0, Nat.mul_zero, Nat.add_zero]

/-- The register after n steps is n single steps. -/
theorem shiftRun_eq_iterate (fb : BitVec 31 → Bool) (x : BitVec 31) (n : Nat) : shiftRun fb x n = (shiftIn fb)^[n] x := by
  rw [shiftRun, shiftDigits_eq_iterate, Nat.mod_eq_of_lt Nat.lt_log2_self]

theorem shiftRun_succ (fb : BitVec 31 → Bool) (x : BitVec 31) (n : Nat) :
    shiftRun fb x (n + 1) = shiftIn fb (shiftRun fb x n) := by
  rw [shiftRun_eq_iterate, shiftRun_eq_iterate, Function.iterate_succ_apply']

/-- One step moves every bit down by one and brings the feedback in at the top. -/
theorem getLsbD_shiftIn (fb : BitVec 31 → Bool) (x : BitVec 31) (i : Nat) :
    (shiftIn fb x).getLsbD i = if i = 30 then fb x else x.getLsbD (i + 1) := by
  unfold shiftIn
  rw [BitVec.getLsbD_cons]
  split
  · rfl
  · rw [BitVec.getLsbD_extractLsb']
    by_cases h : i < 30
    · simp [h, Nat.add_comm]
    · rw [BitVec.getLsbD_of_ge x (i + 1) (by omega)]
      simp [h]

/-- Bit i of the register after n steps is bit 0 after n + i steps. -/
theorem getLsbD_shiftRun (fb : BitVec 31 → Bool) (x : BitVec 31) (n i : Nat) (hi : i < 31) :
    (shiftRun fb x n).getLsbD i = (shiftRun fb x (n + i)).getLsbD 0 := by
  induction i generalizing n with
  | zero => rfl
  | succ i ih =>
    have := ih (n + 1) (by omega)
    rw [shiftRun_succ, getLsbD_shiftIn, if_neg (by omega)] at this
    rw [this]
    congr 2
    omega

/-! ### The checksum -/

theorem crcRegister_congr {f g : Nat → Bool} {n : Nat} (h : ∀ i < n, f i = g i) : crcRegister f n = crcRegister g n := by
  induction n with
  | zero => rfl
  | succ n ih => rw [crcRegister, crcRegister, ih fun i hi => h i (by omega), h n (by omega)]

/-- Feeding the register its own top bit shifts it. -/
theorem crcStep_self (r : BitVec 24) : crcStep r (r.getLsbD 23) = r <<< 1 := by
  simp [crcStep]

end Sys2Proof.Machine
end

