-- ==== Sys2Proof/Laws/Step.lean ====
section
/-! SUPPORT. What one step can do, said once (spec/20_memory.md R74 to R81): from these every statement about steps follows. -/

namespace Sys2Proof.Machine

theorem step_idle {s : State} (h : s.pending = []) : step s = .next s := by
  simp [step, nextEvent, h]

theorem step_event {s : State} {e : HostEvent} {rest : List HostEvent} (h : s.pending = e :: rest) :
    step s = serveEvent e { s with pending := rest } := by
  simp [step, nextEvent, h]

theorem served_iff {w : AccessWidth} {off : Nat} : served w off = true ↔ w = .w32 ∧ off % 4 = 0 := by
  simp [served]

/-- An event that answers a next state is one of these. -/
theorem serveEvent_cases {e : HostEvent} {s t : State} (h : serveEvent e s = .next t) :
    (e = .reset ∧ t = platformReset s) ∨
      (∃ w off, e = .read w off ∧ off < Config.apertureSize ∧ t = { s with readData := t.readData }) ∨
      (∃ w off data, e = .write w off data ∧ off < Config.apertureSize ∧ s.status.busy = false ∧
        (t = s ∨ (off ≠ cmdOffset ∧ off % 4 = 0 ∧ t = hostWriteWord s off data))) ∨
      (∃ data i, e = wrCmd data ∧ decode data = .ok i ∧ s.status.busy = false ∧ exec i (beginCommand s) = .next t) ∨
      ∃ data op, e = wrCmd data ∧ decode data = .error (.reservedOpcode op) ∧ s.status.busy = false ∧
        t = illegalCommand (beginCommand s) := by
  cases e with
  | reset =>
    left
    simp only [serveEvent, Host.Outcome.next.injEq] at h
    exact ⟨rfl, h.symm⟩
  | read w off =>
    right; left
    simp only [serveEvent] at h
    split at h
    · cases h
    · split at h
      · cases h
      · rename_i h1 _
        simp only [Host.Outcome.next.injEq] at h
        refine ⟨w, off, rfl, by omega, ?_⟩
        subst h
        unfold hostRead
        split <;> rfl
  | write w off data =>
    right; right
    simp only [serveEvent] at h
    split at h
    · cases h
    · rename_i h1
      split at h
      · cases h
      · rename_i hb
        have hb : s.status.busy = false := by simpa using hb
        unfold hostWrite at h
        split at h
        · rename_i hs
          obtain ⟨rfl, h4⟩ := served_iff.1 hs
          split at h
          · rename_i hc
            subst hc
            right
            unfold startCommand at h
            cases hd : decode data with
            | ok i =>
              rw [hd] at h
              exact .inl ⟨data, i, rfl, hd, hb, h⟩
            | error e =>
              rw [hd] at h
              obtain ⟨op⟩ := e
              exact .inr ⟨data, op, rfl, hd, hb, by simpa using h.symm⟩
          · rename_i hc
            left
            exact ⟨.w32, off, data, rfl, by omega, hb, .inr ⟨hc, h4, by simpa using h.symm⟩⟩
        · left
          exact ⟨w, off, data, rfl, by omega, hb, .inl (by simpa using h.symm)⟩

/-- What a host write outside CMD can change. -/
theorem hostWriteWord_cases (s : State) (off : Nat) (w : Word) (h4 : off % 4 = 0) :
    hostWriteWord s off w = { s with cfg := w &&& cfgMask } ∨
      hostWriteWord s off w = { s with msgCtrl := w &&& ctrlMask } ∨
      hostWriteWord s off w = { s with msgPayload := w &&& payloadMask } ∨
      hostWriteWord s off w = { s with decSsb := w &&& decSsbMask } ∨
      hostWriteWord s off w = { s with packed := w } ∨
      (Config.gridBase ≤ off ∧ off + 3 < Config.gridEnd ∧ hostWriteWord s off w = writeGridWord s off w) ∨
      hostWriteWord s off w = s := by
  unfold hostWriteWord
  split
  · exact .inl rfl
  · split
    · exact .inr (.inl rfl)
    · split
      · exact .inr (.inr (.inl rfl))
      · split
        · exact .inr (.inr (.inr (.inl rfl)))
        · split
          · exact .inr (.inr (.inr (.inr (.inl rfl))))
          · split
            · rename_i hg
              refine .inr (.inr (.inr (.inr (.inr (.inl ⟨hg.1, ?_, rfl⟩)))))
              have := hg.2
              simp only [Config.gridEnd] at this ⊢
              omega
            · exact .inr (.inr (.inr (.inr (.inr (.inr rfl)))))

/-- A served host write outside CMD stores. -/
theorem step_write {s : State} {off : Nat} {w : Word} {rest : List HostEvent} (hp : s.pending = .write .w32 off w :: rest)
    (hb : s.status.busy = false) (h4 : off % 4 = 0) (h0 : off ≠ 0) (hlt : off < 0x4000) :
    step s = .next (hostWriteWord { s with pending := rest } off w) := by
  rw [step_event hp]
  simp [serveEvent, Config.apertureSize, show ¬0x4000 ≤ off by omega, hb, hostWrite, served, h4, cmdOffset, h0]

/-- A write of CMD starts a command. -/
theorem step_command {s : State} {w : Word} {rest : List HostEvent} (hp : s.pending = .write .w32 0 w :: rest)
    (hb : s.status.busy = false) : step s = startCommand w { s with pending := rest } := by
  rw [step_event hp]
  simp [serveEvent, hb, hostWrite, served, cmdOffset, Config.apertureSize]

end Sys2Proof.Machine
end

