-- ==== Sys2Proof/Tests/Slice0.lean ====
section
/-! SUPPORT. Tests on fixed values, each expected value taken from spec/ (the rule or the vector of spec/95_test_vectors.md is named),
and, for every statement with hypotheses, a named witness that meets them. -/

namespace Sys2Proof.Tests

open Sys2Proof.Machine

/-! ### Small states -/

/-- The block after a successful INIT, with a configuration and a message. -/
def readyState (cfg ctrl payload ssb : Word) : State :=
  { State.reset with
    status := { Status.reset with ready := true, encReady := true, decReady := true }
    cfg := cfg
    msgCtrl := ctrl
    msgPayload := payload
    decSsb := ssb
    code := some { motherLength := 512, construction := 0 } }

/-- The block after reset, with host events to come. -/
def hostState (events : List HostEvent) : State := { State.reset with pending := events }

/-- The block while a command runs, with host events to come. -/
def busyState (events : List HostEvent) : State :=
  { State.reset with status := { Status.reset with busy := true }, pending := events }

/-- The STATUS word after a command, if it answers a next state. -/
def statusAfter (o : Host.Outcome State Fault Refusal) : Option Word :=
  match o with
  | .next t => some t.status.word
  | .fault _ => none
  | .refused _ => none

/-- A bit string written in index order. -/
def bitString (l : List Nat) : Nat → Bool := fun i => l.getD i 0 == 1

/-! ### Decoding, from words written out bit by bit (spec/30_encoding.md R101) -/

theorem test_decode_nop : decode 0b00000000000000000000000000000000#32 = .ok .nop := by decide
theorem test_decode_init : decode 0b00000000000000000000000000000001#32 = .ok .init := by decide
theorem test_decode_encode : decode 0b00000000000000000000000000000010#32 = .ok .encode := by decide
theorem test_decode_decode : decode 0b00000000000000000000000000000011#32 = .ok .decode := by decide
theorem test_decode_pack : decode 0b10100101110000110101101000000100#32 = .ok .pack := by decide
theorem test_decode_unpack : decode 0b11111111111111111111111100000101#32 = .ok .unpack := by decide
theorem test_decode_reserved : decode 0x00000106#32 = .error (.reservedOpcode 0x06#8) := by decide
theorem test_encode_words :
    [encode .nop, encode .init, encode .encode, encode .decode, encode .pack, encode .unpack] =
      [0#32, 1#32, 2#32, 3#32, 4#32, 5#32] := by decide
theorem test_table_word : decodeTableWord 32 3 = some .decode ∧ decodeTableWord 8 5 = some .unpack ∧
    decodeTableWord 32 0xFF = none := by decide
theorem test_fetch_word : step (State.reset.withFetchWord 32 0x100) = exec .nop (beginCommand State.reset) := rfl

/-! ### Well-formedness -/

theorem test_wellFormed_accepts : commandWordWellFormed 0xABCDEF05#32 = true := by decide
theorem test_wellFormed_refuses_first_reserved : commandWordWellFormed 0x00000006#32 = false := by decide
theorem test_wellFormed_refuses_last_reserved : commandWordWellFormed 0x000000FF#32 = false := by decide
theorem test_instr_wellFormed : Instr.unpack.wellFormed = true := by decide

/-! ### The commands on STATUS (spec/41_codec_commands.md, spec/60_exceptions.md) -/

/-- R152's example. -/
theorem test_nop_status :
    statusAfter (exec .nop { State.reset with status := ⟨true, false, false, .illegalCmd, .none, true, false⟩ }) =
      some 0x00001001#32 := by decide

/-- R153's example: both facets. -/
theorem test_init_status : statusAfter (exec .init { State.reset with cfg := 0x03000000#32 }) = some 0x00003001#32 := by
  decide +kernel

/-- R287's example: no facet. -/
theorem test_init_no_facet : statusAfter (exec .init State.reset) = some 0x00000920#32 := by decide

/-- R284's example. -/
theorem test_encode_not_ready : statusAfter (exec .encode State.reset) = some 0x00000040#32 := by decide

/-- R286's example. -/
theorem test_encode_invalid :
    statusAfter (exec .encode { readyState 0x010003F0#32 0#32 0#32 0#32 with
      status := ⟨true, false, false, .ok, .none, true, false⟩ }) = some 0x00001011#32 := by decide

/-- R285's example. -/
theorem test_decode_facet :
    statusAfter (exec .decode { readyState 0x01000000#32 0#32 0#32 0#32 with
      status := ⟨true, false, true, .ok, .none, true, false⟩ }) = some 0x00001051#32 := by decide

/-- R290's example. -/
theorem test_illegal_command :
    statusAfter (step { State.reset with
      status := ⟨true, false, false, .ok, .none, true, false⟩, pending := [wrCmd 0xFF#32] }) = some 0x00001081#32 := by
  decide

/-! ### The packer (spec/95_test_vectors.md T1, T2, W6) -/

/-- T2: V2, V4, V7 and ZB. -/
theorem test_pack_messages :
    pack defaultG .l64 (messageOperand 0x00002A3F#32 0#32) = 0x00870025#32 ∧
    pack defaultG .l64 (messageOperand 0x00003F1A#32 0x123456#32) = 0x4845D1ED#32 ∧
    pack defaultG .l4 (messageOperand 0x00003F3F#32 0xFFFFFF#32) = 0xFFFFFFF3#32 ∧
    pack defaultG .l64 (messageOperand 0x00000008#32 0xA46008#32) = 0x92098400#32 := by decide +kernel

/-- W6: the three fields that depend on Lmax. -/
theorem test_pack_lmax :
    pack defaultG .l64 (messageOperand 0x00003800#32 0#32) = 0x0000002C#32 ∧
    pack defaultG .l64 (messageOperand 0x00000720#32 0#32) = 0x00000000#32 ∧
    pack defaultG .l4 (messageOperand 0x00000020#32 0#32) = 0x00000020#32 := by decide +kernel

/-- V5 the other way: Lmax 4, SSB index 5 supplied. -/
theorem test_unpack_message :
    (unpack defaultG .l4 0x00840022#32 5#6).ctrlWord = 0x00000526#32 ∧
    (unpack defaultG .l4 0x00840022#32 5#6).payloadWord = 0x00000001#32 := by decide +kernel

/-! ### Scrambling, checksum, rate matcher, QPSK, mapping (spec/95_test_vectors.md) -/

/-- T3: V1 and its way back. -/
theorem test_scr1_v1 : scr1 defaultG goldBit 0 .l4 0x00820000#32 = 0xC5F32190#32 := by decide +kernel
theorem test_scr1_v1_back : scr1 defaultG goldBit 0 .l4 0xC5F32190#32 = 0x00820000#32 := by decide +kernel

/-- T3: V2, with the Lmax 64 stride. -/
theorem test_scr1_v2 : scr1 defaultG goldBit 0 .l64 0x00870025#32 = 0xC0DFF327#32 := by decide +kernel

/-- R189's example: the first stage-2 bits of N_id 0, offset 864. -/
theorem test_scr2_bits :
    (List.range 16).map (fun n => goldBit 0 (864 + n)) =
      (List.range 16).map (bitString [0, 1, 0, 1, 1, 0, 1, 0, 0, 1, 0, 0, 1, 1, 0, 1]) := by
  decide +kernel

/-- T4: V1. -/
theorem test_crc_v1 :
    crc24c 0xC5F32190#32 =
      bitsOf 24 (bitString [0, 1, 0, 1, 1, 1, 1, 1, 1, 1, 1, 1, 1, 0, 0, 1, 1, 1, 0, 0, 1, 0, 0, 1]) := by
  decide +kernel

/-- T5: the sub-block index. -/
theorem test_subBlockIndex :
    [0, 15, 48, 64, 144, 511].map subBlockIndex = [0, 15, 64, 48, 256, 511] := by decide

/-- R232's example. -/
theorem test_qpsk_point : qpskPoint true false = ⟨0xBF3504F3#32, 0x3F3504F3#32⟩ := by decide

/-- R234: an infinity and a zero are erasures; 1.0 and -0.5 are themselves. -/
theorem test_demod :
    defaultDemod ⟨0x7F800000#32, 0x80000000#32⟩ = (0, 0) ∧ defaultDemod ⟨0x3F800000#32, 0xBF000000#32⟩ = (1, -1 / 2) := by
  decide +kernel

/-- R261: boundary entries of the data-element lists. -/
theorem test_pbchRE :
    [0, 179, 180, 215, 216, 251, 252, 431].map (fun n => (pbchRE 0).getD n 0) = [241, 479, 481, 527, 673, 719, 721, 959] ∧
    [0, 179, 180, 215, 216, 251, 252, 431].map (fun n => (pbchRE 3).getD n 0) = [240, 478, 480, 526, 672, 718, 720, 958] := by
  decide +kernel

/-! ### Host accesses -/

/-- R41: reserved bits of CFG stay 0. -/
theorem test_cfg_reserved_bits : (hostWriteWord State.reset 0x008 0xFFFFFFFF#32).cfg = 0x030303FF#32 := by decide

/-- R73: a grid word written is read back at the last element. -/
theorem test_grid_word :
    hostReadWord (hostWriteWord State.reset 0x2DFC 0x12345678#32) 0x2DFC = 0x12345678#32 := by decide

/-! ### Witnesses: the hypotheses of each statement can be met together -/

/-- Parameters with every premise of the round trip: no scrambling, no checksum, no code. -/
def plainParams : Params where
  G := defaultG
  prbs := fun _ _ => false
  crc := fun _ => 0#24
  crcCheck := fun _ => true
  getCode := fun _ _ _ => some { motherLength := 512, construction := 0 }
  polarAlloc := fun c _ => c.setWidth 512
  polarEncode := fun u _ => u
  rmTx := fun _ d => bitsOf 864 d.getLsbD
  rmRx := fun _ sd => (Vector.ofFn fun n : Fin 512 => sd[n.val], true)
  polarDecode := fun ys _ => (bitsOf 56 fun n => if h : n < 512 then decide (ys[n] < 0) else false, true)
  demod := fun x => (if x.re.getLsbD 31 then -1 else 1, if x.im.getLsbD 31 then -1 else 1)
  primInitOk := fun _ => true

/-- The code `readyState` holds. -/
def plainCode : PolarCode := { motherLength := 512, construction := 0 }

/-- A ready block for the codec commands: N_id 1007, Lmax 64, SSB index 42. -/
def codecState : State := readyState 0x030203EF#32 0x00002A05#32 0x00A5A5A5#32 0x0000003A#32

/-- Its configuration. -/
def codecConfiguration : CodecConfig := { nid := 1007, lmax := .l64 }

theorem codecState_config : codecConfig codecState.cfg = some codecConfiguration := by decide

theorem codecState_encode : precheckCodec .enc codecState = .ok codecConfiguration := by decide

theorem codecState_decode : precheckCodec .dec codecState = .ok codecConfiguration := by decide

theorem witness_DecodeAndEncodeAgree :
    Instr.decode.wellFormed = true ∧ decode 0xFFFFFF05#32 = .ok .unpack ∧ 6 ≤ (opField 0x00000006#32).toNat ∧
      6 ≤ (opField 0x000000FF#32).toNat := by decide

theorem witness_StepRunsDecodedCommand :
    (hostState [.write .w32 0 0x00000100#32]).pending = .write .w32 0 0x00000100#32 :: [] ∧
      (hostState [.write .w32 0 0x00000100#32]).status.busy = false ∧ decode 0x00000100#32 = .ok .nop ∧
      Instr.nop.wellFormed = true := by decide

theorem witness_ReservedOpcodeEndsIllegal :
    ((hostState [.write .w32 0 0x00000006#32]).pending = .write .w32 0 0x00000006#32 :: [] ∧
      (hostState [.write .w32 0 0x00000006#32]).status.busy = false ∧ 6 ≤ (opField 0x00000006#32).toNat) ∧
    6 ≤ (opField 0xFFFFFFFF#32).toNat ∧
    (let s := { hostState [.write .w32 0 0x000000FF#32] with status := ⟨true, false, false, .ok, .none, true, false⟩ };
      s.pending = .write .w32 0 0x000000FF#32 :: [] ∧ s.status = ⟨true, false, false, .ok, .none, true, false⟩) := by
  decide

/-- Every clause's offset at its bounds: the registers, the reserved ranges, the first and the last grid element. -/
theorem witness_HostReadReturnsRegister :
    ∀ off ∈ [0x000, 0x004, 0x008, 0x00C, 0x010, 0x014, 0x018, 0x01C, 0x020, 0x024, 0xFFC, 0x1000 + 8 * 0, 0x1000 + 8 * 0 + 4,
        0x1000 + 8 * 959, 0x1000 + 8 * 959 + 4, 0x2E00, 0x3FFC],
      (hostState [.read .w32 off]).pending = .read .w32 off :: [] ∧ (hostState [.read .w32 off]).status.busy = false ∧
        off % 4 = 0 ∧ off < 0x4000 := by decide

/-- Every clause's offset, the reserved ranges and the grid at their bounds. -/
theorem witness_HostWriteStoresDefinedFields :
    ∀ off ∈ [0x008, 0x00C, 0x010, 0x014, 0x020, 0x004, 0x018, 0x01C, 0x024, 0xFFC, 0x1000, 0x2DFC, 0x2E00, 0x3FFC],
      (hostState [.write .w32 off 0xFFFFFFFF#32]).pending = .write .w32 off 0xFFFFFFFF#32 :: [] ∧
        (hostState [.write .w32 off 0xFFFFFFFF#32]).status.busy = false ∧ off % 4 = 0 := by decide

theorem witness_GridElementWrittenWhole :
    ∀ i ∈ [0, 959],
      let events := [.write .w32 (0x1000 + 8 * i) 1#32, .write .w32 (0x1000 + 8 * i + 4) 2#32]
      i < 960 ∧ (hostState events).status.busy = false ∧ (hostState events).pending =
        .write .w32 (0x1000 + 8 * i) (Sample.mk 1#32 2#32).re ::
          .write .w32 (0x1000 + 8 * i + 4) (Sample.mk 1#32 2#32).im :: [] := by decide

theorem witness_UnservedAccessIgnored :
    ∀ x ∈ [(AccessWidth.w8, 0), (.w16, 0x3FFE), (.w64, 0x1000), (.w32, 0x3FFF), (.w32, 1)],
      x.2 < 0x4000 ∧ (x.1 ≠ .w32 ∨ x.2 % 4 ≠ 0) ∧
        (hostState [.read x.1 x.2]).status.busy = false ∧ (hostState [.read x.1 x.2]).pending = .read x.1 x.2 :: [] ∧
        (hostState [.write x.1 x.2 7#32]).status.busy = false ∧
        (hostState [.write x.1 x.2 7#32]).pending = .write x.1 x.2 7#32 :: [] := by decide

theorem witness_IdleBlockKeepsItsState : State.reset.pending = [] := rfl

theorem witness_PlatformResetClearsBlock : (hostState [.reset]).pending = .reset :: [] := rfl

/-- The conditions of each clause, met at a boundary, with the stop they name: a read and a write beyond the aperture, ENCODE and DECODE
with no CODE, and the accesses a busy block refuses, beside the one it serves. -/
theorem witness_EveryStopIsNamed :
    step (hostState [.read .w32 0x4000]) = .fault (.outsideAperture 0x4000) ∧
    step (hostState [.write .w8 0x4000 0#32]) = .fault (.outsideAperture 0x4000) ∧
    step { codecState with code := none, pending := [wrCmd 2#32] } = .fault .codeAbsent ∧
    step { codecState with code := none, pending := [wrCmd 3#32] } = .fault .codeAbsent ∧
    (codecState.status.busy = false ∧ codecState.status.ready = true ∧ codecState.status.encReady = true ∧
      codecState.status.decReady = true ∧ codecConfig codecState.cfg ≠ none ∧ decode 2#32 = .ok .encode ∧
      decode 3#32 = .ok .decode) ∧
    step (busyState [.write .w32 0x3FFC 0#32]) = .refused .hostAccessWhileBusy ∧
    step (busyState [.read .w32 0x008]) = .refused .hostAccessWhileBusy ∧
    step (busyState [.read .w8 0x004]) = .refused .hostAccessWhileBusy ∧
    step (busyState [.read .w32 0x004]) = .next { busyState [] with readData := 2#32 } :=
  ⟨rfl, rfl, rfl, rfl, by decide, rfl, rfl, rfl, rfl⟩

theorem witness_BusAddressNamesOffset :
    (0x3FFF < 0x4000 ∧ 0 < 0x4000) ∧
      (Config.base + 0x4000 < Config.base ∨ Config.base + 0x4000 ≤ Config.base + 0x4000) :=
  ⟨by decide, .inr (Nat.le_refl _)⟩

theorem witness_StepKeepsInvariant :
    Inv (hostState [wrCmd 0#32]) ∧ step (hostState [wrCmd 0#32]) = .next (hostState []) := by
  refine ⟨⟨?_, ?_, ?_, ?_, ?_, ?_, ?_, ?_, ?_, ?_, ?_, ?_⟩, rfl⟩
  all_goals decide

theorem witness_AddressedHostIsAlwaysAnswered :
    Inv (hostState [wrCmd 0#32]) ∧ ∀ e ∈ (hostState [wrCmd 0#32]).pending, e.inAperture = true :=
  ⟨witness_StepKeepsInvariant.1, by decide⟩

/-- The three clauses with hypotheses: READY set by INIT, a failed INIT, a block that is not ready. -/
theorem witness_ReadySetOnlyByInit :
    (let s := { hostState [wrCmd 1#32] with cfg := 0x01000000#32 };
      ∃ t, step s = .next t ∧ s.status.ready = false ∧ t.status.ready = true) ∧
    (∃ t, exec .init State.reset = .next t ∧ t.status.err ≠ .ok) ∧ State.reset.status.ready = false := by
  refine ⟨?_, ⟨_, rfl, by decide⟩, rfl⟩
  refine ⟨_, rfl, rfl, ?_⟩
  rfl

/-- Every command answers a next state from some state. -/
theorem codecState_answers : ∀ i : Instr, ∃ t, exec i codecState = .next t := by
  intro i
  cases i
  · exact ⟨_, rfl⟩
  · exact ⟨_, rfl⟩
  · exact show ∃ t, encodeCommand params codecState = .next t from ⟨_, encodeCommand_of_ok codecState_encode rfl⟩
  · exact show ∃ t, decodeCommand params codecState = .next t from ⟨_, decodeCommand_of_ok codecState_decode rfl⟩
  · exact ⟨_, rfl⟩
  · exact ⟨_, rfl⟩

theorem witness_CommandsWriteOnlyTheirRegisters :
    (∃ t, exec .pack codecState = .next t) ∧ Instr.pack ≠ .decode ∧ Instr.pack ≠ .init ∧ Instr.pack ≠ .unpack ∧
      Instr.pack ≠ .encode ∧ (∃ t, exec .encode codecState = .next t) ∧ Instr.encode ≠ .pack :=
  ⟨codecState_answers _, by decide, by decide, by decide, by decide, codecState_answers _, by decide⟩

theorem witness_ErrorsOfEachCommand : ∃ t, exec .decode codecState = .next t := codecState_answers _

theorem witness_InternalNeverRaised : ∃ t, exec .encode codecState = .next t := codecState_answers _

theorem witness_StatusWordLayout :
    (⟨true, false, true, .ok, .none, true, true⟩ : Status).ready = true ∧
      (⟨true, false, true, .ok, .none, true, true⟩ : Status).busy = false := by decide

theorem witness_NopClearsError :
    BitVec.extractLsb' 0 8 0x00000100#32 = 0x00#8 ∧
      { State.reset with status := ⟨true, false, false, .illegalCmd, .none, true, false⟩ }.status =
        ⟨true, false, false, .illegalCmd, .none, true, false⟩ := by decide

theorem witness_InitBuildsEnabledFacets :
    (enEncField { State.reset with cfg := 0x01000000#32 }.cfg || enDecField { State.reset with cfg := 0x01000000#32 }.cfg) =
      true ∧ enEncField { State.reset with cfg := 0x02000000#32 }.cfg = false ∧
    (enEncField { State.reset with cfg := 0x02000000#32 }.cfg || enDecField { State.reset with cfg := 0x02000000#32 }.cfg) =
      true := by decide

/-- Each clause, and each way INIT can fail. -/
theorem witness_InitOutcomes :
    (Instr.pack ≠ .init ∧ (∃ t, exec .pack codecState = .next t) ∧ decode 6#32 = .error (.reservedOpcode 0x06#8) ∧
      ∃ t, startCommand 6#32 codecState = .next t) ∧
    (enEncField State.reset.cfg = false ∧ enDecField State.reset.cfg = false) ∧
    (enEncField codecState.cfg || enDecField codecState.cfg) = true ∧ enEncField codecState.cfg = true ∧
    enDecField codecState.cfg = true ∧
    (∀ g : PrimGroup, { plainParams with primInitOk := fun x => x != g }.primInitOk g = false) ∧
    { plainParams with getCode := fun _ _ _ => none }.getCode 56 864 9 = none ∧
    (∃ c, { plainParams with getCode := fun _ _ _ => some { motherLength := 256, construction := 0 } }.getCode 56 864 9 =
      some c ∧ c.motherLength ≠ 512) ∧
    (plainParams.primInitOk .common = true ∧ plainParams.getCode 56 864 9 = some plainCode ∧
      plainCode.motherLength = 512) ∧
    (State.reset.cfg = 0#32 ∧ State.reset.status.crcOk = false) :=
  ⟨⟨by decide, codecState_answers _, by decide, ⟨_, rfl⟩⟩, by decide, by decide, by decide, by decide,
    fun g => by cases g <;> rfl, rfl, ⟨_, rfl, by decide⟩, ⟨rfl, rfl, rfl⟩,
    by decide⟩

theorem witness_ConfigureThenInitMakesReady :
    let s := hostState [.write .w32 0x008 0x02000000#32, .write .w32 0 0x00000001#32]
    s.status.busy = false ∧ s.pending = .write .w32 0x008 0x02000000#32 :: .write .w32 0 0x00000001#32 :: [] ∧
      (BitVec.getLsbD 0x02000000#32 24 || BitVec.getLsbD 0x02000000#32 25) = true := by decide

theorem witness_NotReadyEndsCodecCommands : State.reset.status.ready = false := rfl

theorem witness_MissingFacetEndsCodecCommands :
    let t : Status := ⟨true, false, false, .ok, .none, true, false⟩
    let u : Status := ⟨true, false, false, .ok, .none, false, true⟩
    ({ State.reset with status := u }.status.ready = true ∧ { State.reset with status := u }.status.encReady = false) ∧
    ({ State.reset with status := t }.status.ready = true ∧ { State.reset with status := t }.status.decReady = false) ∧
    { State.reset with status := t }.status = t := by decide

/-- Both ways a configuration is illegal, at the bound; a legal one at the bound; the rule's example. -/
theorem witness_InvalidInputProducesNoOutput :
    (1007 < nidField (readyState 0x030003F0#32 0#32 0#32 0#32).cfg ∧
      (readyState 0x030003F0#32 0#32 0#32 0#32).status.ready = true ∧
      (readyState 0x030003F0#32 0#32 0#32 0#32).status.encReady = true ∧
      (readyState 0x030003F0#32 0#32 0#32 0#32).status.decReady = true) ∧
    lmaxField (readyState 0x03030000#32 0#32 0#32 0#32).cfg = 3#2 ∧
    (nidField codecState.cfg ≤ 1007 ∧ lmaxField codecState.cfg ≠ 3#2 ∧ ∃ t, exec .unpack codecState = .next t) ∧
    (let s := { readyState 0x010003F0#32 0#32 0#32 0#32 with status := ⟨true, false, false, .ok, .none, true, false⟩ };
      s.status = ⟨true, false, false, .ok, .none, true, false⟩ ∧ s.cfg = 0x010003F0#32) :=
  ⟨by decide, by decide, ⟨by decide, by decide, codecState_answers _⟩, by decide⟩

/-- With an offset outside the data elements: the reserved element 243 (W7). -/
theorem witness_EncodeWritesItsSymbols :
    codecState.status.ready = true ∧ codecState.status.encReady = true ∧
      codecConfig codecState.cfg = some codecConfiguration ∧ codecState.code = some plainCode ∧
      ∀ i ∈ pbchRE (codecConfiguration.nid % 4), 0x1000 + 8 * 243 < 0x1000 + 8 * i ∨ 0x1000 + 8 * i + 8 ≤ 0x1000 + 8 * 243 := by
  decide +kernel

theorem memRead_complete (s : State) (i : Nat) : memRead (complete s) i = memRead s i := rfl

/-- The end of ENCODE changes STATUS and the grid's storage alone. -/
theorem complete_reMap (v : Nat) (S : Vector Sample 432) (s : State) :
    complete (reMap v S s) =
      { s with status := s.status.finish .ok .none, grid := (complete (reMap v S s)).grid } := by
  rw [reMap_eq]
  rfl

/-- A block whose element 240 the host has zeroed: ENCODE changes it. -/
theorem witness_EncodeWritesOnlyConstellation :
    let s := memWrite codecState 240 ⟨0#32, 0#32⟩
    ∃ t, encodeCommand plainParams s = .next t ∧ memRead t 240 ≠ memRead s 240 := by
  refine ⟨_, encodeCommand_of_ok (c := codecConfiguration) (code := plainCode) (by decide) rfl, ?_⟩
  have h0 : (pbchRE (refShift codecConfiguration.nid)).getD 0 0 = 240 := by decide +kernel
  have h := memRead_reMap (refShift_lt codecConfiguration.nid)
    (encodeSymbols plainParams codecConfiguration plainCode (messageOperand codecState.msgCtrl codecState.msgPayload))
    (memWrite codecState 240 ⟨0#32, 0#32⟩) ⟨0, by decide⟩
  rw [h0] at h
  rw [memRead_memWrite, if_pos rfl]
  intro he
  have hs := h.symm.trans ((memRead_complete _ 240).symm.trans he)
  simp only [encodeSymbols, qpskMap, Fin.getElem_fin, Vector.getElem_ofFn] at hs
  generalize BitVec.getLsbD _ _ = a at hs
  generalize BitVec.getLsbD _ _ = b at hs
  revert hs
  cases a <;> cases b <;> decide

theorem witness_DecodeEndsByItsStages :
    codecState.status.ready = true ∧ codecState.status.decReady = true ∧
      codecConfig codecState.cfg = some codecConfiguration ∧ codecState.code = some plainCode := by decide

theorem witness_DecodeAcceptsCheckedVector :
    let p := { plainParams with
      rmRx := fun _ _ => (Vector.replicate 512 0, true), polarDecode := fun _ _ => (0x12345#56, true) }
    (codecState.status.ready = true ∧ codecState.status.decReady = true ∧
      codecConfig codecState.cfg = some codecConfiguration ∧ codecState.code = some plainCode) ∧
    (∀ sd, p.rmRx rateMatchCall sd = (Vector.replicate 512 0, true)) ∧
    p.polarDecode (Vector.replicate 512 0) plainCode = (0x12345#56, true) ∧ p.crcCheck 0x12345#56 = true :=
  ⟨witness_DecodeEndsByItsStages, fun _ => rfl, rfl, rfl⟩

/-- One set of parameters for each stage that fails. -/
theorem witness_DecodeStageErrors :
    (codecState.status.ready = true ∧ codecState.status.decReady = true ∧
      codecConfig codecState.cfg = some codecConfiguration ∧ codecState.code = some plainCode) ∧
    (∀ sd, ({ plainParams with rmRx := fun _ _ => (Vector.replicate 512 0, false) }.rmRx rateMatchCall sd).2 = false) ∧
    (∀ sd ys, (plainParams.rmRx rateMatchCall sd).2 = true ∧
      ({ plainParams with polarDecode := fun _ _ => (0#56, false) }.polarDecode ys plainCode).2 = false) ∧
    (∀ ys, (plainParams.polarDecode ys plainCode).2 = true ∧ { plainParams with crcCheck := fun _ => false }.crcCheck
      (plainParams.polarDecode ys plainCode).1 = false) ∧
    ∃ t, encodeCommand plainParams codecState = .next t :=
  ⟨witness_DecodeEndsByItsStages, fun _ => rfl, fun _ _ => ⟨rfl, rfl⟩, fun _ => ⟨rfl, rfl⟩,
    ⟨_, encodeCommand_of_ok codecState_encode rfl⟩⟩

/-- A DECODE that accepts; and the two steps that change CRC_OK: a platform reset, and a DECODE that is not ready. -/
theorem witness_CrcOkReportsAcceptance :
    (∃ t, decodeCommand plainParams codecState = .next t ∧ t.status.err = .ok) ∧ Instr.nop ≠ .decode ∧
    (∃ t, exec .nop codecState = .next t) ∧
    (let accepted := { Status.reset with crcOk := true };
      (∃ t, step { hostState [.reset] with status := accepted } = .next t ∧ t.status.crcOk ≠ accepted.crcOk) ∧
      ∃ t, step { hostState [wrCmd 3#32] with status := accepted } = .next t ∧ t.status.crcOk ≠ accepted.crcOk) :=
  ⟨⟨_, decodeCommand_of_ok codecState_decode rfl, rfl⟩, by decide, codecState_answers _,
    ⟨_, rfl, by decide⟩, ⟨_, rfl, by decide⟩⟩

/-- A legal configuration at the bounds (N_id 1007, code 2), the rule's example, and both ways a configuration is illegal. -/
theorem witness_PackWritesPackedVector :
    ((codecState.cfg.extractLsb' 0 10).toNat = 1007 ∧ codecState.cfg.extractLsb' 16 2 = 2#2) ∧
    (let s := { State.reset with msgCtrl := 0x00000205#32 };
      (s.cfg.extractLsb' 0 10).toNat ≤ 1007 ∧ s.cfg.extractLsb' 16 2 ≠ 3#2 ∧ s.cfg = 0#32 ∧ s.msgCtrl = 0x00000205#32 ∧
        s.msgPayload = 0#32) ∧
    1007 < (BitVec.extractLsb' 0 10 { State.reset with cfg := 0x000003F0#32 }.cfg).toNat ∧
    BitVec.extractLsb' 16 2 { State.reset with cfg := 0x00030000#32 }.cfg = 3#2 := by decide

theorem witness_UnpackWritesRecoveredMessage :
    ((codecState.cfg.extractLsb' 0 10).toNat = 1007 ∧ codecState.cfg.extractLsb' 16 2 = 2#2) ∧
    (let s := { State.reset with packed := 0x00820000#32, decSsb := 2#32 };
      (s.cfg.extractLsb' 0 10).toNat ≤ 1007 ∧ s.cfg.extractLsb' 16 2 ≠ 3#2 ∧ s.cfg = 0#32 ∧ s.packed = 0x00820000#32 ∧
        s.decSsb = 2#32) ∧
    1007 < (BitVec.extractLsb' 0 10 { State.reset with cfg := 0x000003F0#32 }.cfg).toNat ∧
    BitVec.extractLsb' 16 2 { State.reset with cfg := 0x00030000#32 }.cfg = 3#2 := by decide

theorem witness_PackAndUnpackAreInverse :
    Function.Injective defaultG ∧ Lmax.l8 ≠ .l64 ∧ BitVec.getLsbD 0xFFFFFFF3#32 (defaultG 12) = false ∧
      BitVec.getLsbD 0xFFFFFFF3#32 (defaultG 13) = false := ⟨defaultG_injective, by decide, by decide, by decide⟩

/-- Two vectors that differ in the reserved positions only. -/
theorem witness_UncarriedFieldsFilled :
    Function.Injective defaultG ∧ Lmax.l4 ≠ .l64 ∧
      ∀ p : Fin 32, p ≠ defaultG 12 → p ≠ defaultG 13 → BitVec.getLsbD 0x0000000C#32 p = BitVec.getLsbD 0#32 p :=
  ⟨defaultG_injective, by decide, by decide⟩

theorem witness_StageOneSelectorFromFrameNumber :
    Function.Injective defaultG ∧ (messageOperand 0x00000005#32 0#32).sfn4 = 0b0101#4 := ⟨defaultG_injective, by decide⟩

theorem witness_StageOneUndoesItself :
    (0 < 32 ∧ excluded defaultG 0 = true) ∧ 23 < 32 ∧ excluded defaultG 23 = true := by decide

/-- A vector of zeros, a generator of zeros, soft values all positive; and an erasure. -/
theorem witness_StageTwoUndoneOnSigns :
    stage2Selector .l4 5#6 = stage2Selector .l4 1#6 ∧
    (∀ n : Fin 864, SoftSays ((scr2 (fun _ _ => false) 0 .l4 1#6 0#864).getLsbD n) (Vector.replicate 864 (1 : Soft))[n]) ∧
    (Vector.replicate 864 (0 : Soft))[(863 : Fin 864)] = 0 := by
  refine ⟨by decide, fun n => ?_, by simp⟩
  rw [getLsbD_scr2 _ _ _ _ _ _ n.isLt]
  simp [SoftSays]

/-- Two generators that differ beyond each bound only. -/
theorem witness_GeneratorIndexBounds :
    (∀ n ≤ 112, (fun _ _ => false : Nat → Nat → Bool) 0 n = (fun _ n => decide (112 < n) : Nat → Nat → Bool) 0 n) ∧
    (∀ n ≤ 6911, (fun _ _ => false : Nat → Nat → Bool) 0 n = (fun _ n => decide (6911 < n) : Nat → Nat → Bool) 0 n) ∧
    Function.Injective defaultG := by
  refine ⟨fun n h => ?_, fun n h => ?_, defaultG_injective⟩ <;> simp <;> omega

theorem witness_GeneratorFollowsRecurrences : 0 ≤ 1007 ∧ 1007 ≤ 1007 := by decide

/-- The first and the last element of each clause, and two equal vectors. -/
theorem witness_RateMatcherRepeats :
    0 < 352 ∧ 351 < 352 ∧ 0 < 864 ∧ 863 < 864 ∧
      ∀ k < 512, (defaultRmTx rateMatchCall 1#512).getLsbD k = (defaultRmTx rateMatchCall 1#512).getLsbD k :=
  ⟨by decide, by decide, by decide, by decide, fun _ _ => rfl⟩

theorem witness_DemapperSigns :
    BitVec.extractLsb' 0 31 0x80000000#32 = 0#31 ∧ BitVec.extractLsb' 23 8 0x7FC00000#32 = 0xFF#8 ∧
      BitVec.extractLsb' 0 31 0x80000001#32 ≠ 0#31 ∧ BitVec.extractLsb' 23 8 0x80000001#32 ≠ 0xFF#8 := by decide

theorem witness_DataElementsClosedForm : 3 < 4 ∧ 431 < 432 ∧ 430 + 1 < 432 := by decide

theorem witness_DemapReturnsMappedSymbols : 1007 % 4 = 3 % 4 := by decide

/-- Two blocks that differ in what the commands do not read: the results, the last read and, for ENCODE, DEC_SSB. -/
theorem witness_CommandsAreFunctionsOfTheirOperands :
    let s := codecState
    let t := { codecState with resCtrl := 1#32, resPayload := 2#32, readData := 3#32 }
    codecConfig s.cfg = codecConfig t.cfg ∧ codecConfig s.cfg = some codecConfiguration ∧
    (∃ s' t', encodeCommand plainParams s = .next s' ∧ encodeCommand plainParams t = .next t' ∧ s'.status.err = .ok) ∧
    (∃ s' t', decodeCommand plainParams s = .next s' ∧ decodeCommand plainParams t = .next t' ∧ s'.status.err = .ok) ∧
    (∃ s' t', packCommand plainParams s = .next s' ∧ packCommand plainParams t = .next t' ∧ s'.status.err = .ok) ∧
    (∃ s' t', unpackCommand plainParams s = .next s' ∧ unpackCommand plainParams t = .next t' ∧ s'.status.err = .ok) ∧
    (s.status.ready = t.status.ready ∧ s.status.encReady = t.status.encReady ∧ s.status.decReady = t.status.decReady ∧
      messageOperand s.msgCtrl s.msgPayload = messageOperand t.msgCtrl t.msgPayload ∧ s.code = t.code ∧
      ssbOperand s.decSsb = ssbOperand t.decSsb ∧ s.packed = t.packed) ∧
    ∀ i, memRead s i = memRead t i :=
  ⟨rfl, codecState_config,
    ⟨_, _, encodeCommand_of_ok codecState_encode rfl, encodeCommand_of_ok (c := codecConfiguration) (by decide) rfl, rfl⟩,
    ⟨_, _, decodeCommand_of_ok codecState_decode rfl, decodeCommand_of_ok (c := codecConfiguration) (by decide) rfl, rfl⟩,
    ⟨_, _, rfl, rfl, rfl⟩, ⟨_, _, rfl, rfl, rfl⟩, ⟨rfl, rfl, rfl, rfl, rfl, rfl, rfl⟩, fun _ => rfl⟩

/-- Premise P2 for the plain parameters. -/
theorem plain_demap : DemapKeepsSigns plainParams := by
  intro b0 b1
  cases b0 <;> cases b1 <;> simp [plainParams, qpskPoint, componentWord, SoftSays]

/-- Premise P3 for the plain parameters: the decoder reads the first 56 signs. -/
theorem plain_noiseless : CodingNoiseless plainParams plainCode := by
  intro C S h
  refine ⟨rfl, ?_⟩
  refine Prod.ext ?_ rfl
  apply BitVec.eq_of_getLsbD_eq
  intro n hn
  have hs := h ⟨n, by omega⟩
  simp only [channelEncode, plainParams, getLsbD_bitsOf] at hs
  simp only [plainParams, getLsbD_bitsOf, show n < 512 by omega, hn, dif_pos, decide_true, Bool.true_and,
    Vector.getElem_ofFn]
  rw [show decide (n < 864) = true from decide_eq_true (by omega), Bool.true_and, BitVec.getLsbD_setWidth,
    show decide (n < 512) = true from decide_eq_true (by omega), Bool.true_and] at hs
  change SoftSays (C.getLsbD n) S[n] at hs
  unfold SoftSays at hs
  cases hc : C.getLsbD n <;> simp only [hc, Bool.false_eq_true, if_true, if_false] at hs
  · simp only [decide_eq_false_iff_not, not_lt]
    exact le_of_lt hs
  · exact decide_eq_true hs

/-- The block after the ENCODE of `codecState`, under the plain parameters. -/
def encodedState : State :=
  complete (reMap (refShift codecConfiguration.nid)
    (encodeSymbols plainParams codecConfiguration plainCode (messageOperand codecState.msgCtrl codecState.msgPayload))
    codecState)

/-- SSB index 42 in the message, 58 in DEC_SSB: congruent modulo 8. -/
theorem witness_NoiselessRoundTrip :
    Function.Injective plainParams.G ∧ ChecksumAccepts plainParams ∧ DemapKeepsSigns plainParams ∧
    CodingNoiseless plainParams plainCode ∧
    (codecState.status.ready = true ∧ codecState.status.encReady = true ∧
      codecConfig codecState.cfg = some codecConfiguration ∧ codecState.code = some plainCode) ∧
    encodeCommand plainParams codecState = .next encodedState ∧
    (encodedState.status.ready = true ∧ encodedState.status.decReady = true ∧
      codecConfig encodedState.cfg = some codecConfiguration ∧ encodedState.code = some plainCode) ∧
    (∀ i ∈ pbchRE (codecConfiguration.nid % 4), memRead encodedState i = memRead encodedState i) ∧
    (ssbOperand encodedState.decSsb).toNat % codecConfiguration.lmax.selectorModulus =
      (messageOperand codecState.msgCtrl codecState.msgPayload).ssb.toNat % codecConfiguration.lmax.selectorModulus := by
  have he : encodedState = { codecState with
      status := codecState.status.finish .ok .none, grid := encodedState.grid } := complete_reMap _ _ _
  refine ⟨defaultG_injective, fun _ => rfl, plain_demap, plain_noiseless, by decide,
    encodeCommand_of_ok codecState_encode rfl, ?_, fun _ _ => rfl, ?_⟩
  · rw [he]
    exact ⟨rfl, rfl, codecState_config, rfl⟩
  · rw [he]
    decide

/-- N_id at its bound with each Lmax code, N_id beyond it, and code 3. -/
theorem witness_OperandsReadFromRegisterFields :
    (BitVec.toNat 0x010003EF#32 % 1024 = 1007 ∧ BitVec.toNat 0x010003EF#32 / 65536 % 4 = 0) ∧
    (BitVec.toNat 0x010103EF#32 % 1024 = 1007 ∧ BitVec.toNat 0x010103EF#32 / 65536 % 4 = 1) ∧
    (BitVec.toNat 0x010203EF#32 % 1024 = 1007 ∧ BitVec.toNat 0x010203EF#32 / 65536 % 4 = 2) ∧
    1007 < BitVec.toNat 0x010003F0#32 % 1024 ∧ BitVec.toNat 0x01030000#32 / 65536 % 4 = 3 := by decide

end Sys2Proof.Tests
end

section
/-! PROOFS. The state of the block: what an aligned host access reads and stores, what each command leaves in STATUS, and the
invariant of Sys2Proof/Safety.lean (spec/10_state.md, spec/20_memory.md). -/

namespace Sys2Proof.Machine

/-! ### The operand fields (spec/30_encoding.md R105 to R107) -/

theorem nidField_eq_mod (cfg : Word) : nidField cfg = cfg.toNat % 1024 := by
  simp [nidField, BitVec.extractLsb'_toNat]

theorem lmaxField_toNat (cfg : Word) : (lmaxField cfg).toNat = cfg.toNat / 65536 % 4 := by
  simp [lmaxField, BitVec.extractLsb'_toNat, Nat.shiftRight_eq_div_pow]

theorem lmaxField_eq {cfg : Word} {k : BitVec 2} (h : cfg.toNat / 65536 % 4 = k.toNat) : lmaxField cfg = k :=
  BitVec.eq_of_toNat_eq (by rw [lmaxField_toNat, h])

/-- A legal N_id with the code of an Lmax value is the configuration of the two (R150). -/
theorem codecConfig_of_fields {cfg : Word} {k : BitVec 2} {l : Lmax} (hn : cfg.toNat % 1024 ≤ 1007)
    (hk : cfg.toNat / 65536 % 4 = k.toNat) (hl : Lmax.ofCode k = some l) :
    codecConfig cfg = some ⟨cfg.toNat % 1024, l⟩ :=
  codecConfig_some.2 ⟨by rwa [nidField_eq_mod], by rwa [lmaxField_eq hk], (nidField_eq_mod cfg).symm⟩

theorem codecConfig_none_of_fields {cfg : Word} (h : 1007 < cfg.toNat % 1024 ∨ cfg.toNat / 65536 % 4 = 3) :
    codecConfig cfg = none := by
  rw [codecConfig_none, nidField_eq_mod]
  exact h.imp_right lmaxField_eq

/-- Bit `b` of a field is bit `start + b` of its register. -/
theorem getLsbD_field (x : Word) (start : Nat) {len b : Nat} (hb : b < len) :
    (x.extractLsb' start len).getLsbD b = x.getLsbD (start + b) := by
  simp [hb]

theorem getLsbD_lowField (x : Word) {len b : Nat} (hb : b < len) : (x.extractLsb' 0 len).getLsbD b = x.getLsbD b := by
  rw [getLsbD_field x 0 hb, Nat.zero_add]

/-! ### Host reads and writes (spec/20_memory.md R74) -/

/-- An aligned 32-bit read in the aperture returns the word at its offset and changes nothing else (R74, R80). -/
theorem step_read {s : State} {off : Nat} {rest : List HostEvent} (hp : s.pending = .read .w32 off :: rest)
    (hb : s.status.busy = false) (h4 : off % 4 = 0) (hlt : off < 0x4000) :
    step s = .next { s with pending := rest, readData := hostReadWord s off } := by
  have hread : hostRead .w32 off { s with pending := rest } =
      { s with pending := rest, readData := hostReadWord s off } := if_pos (served_iff.2 ⟨rfl, h4⟩)
  rw [step_event hp]
  simp [serveEvent, show ¬Config.apertureSize ≤ off from Nat.not_le.2 hlt, hb, hread]

/-- A grid offset reads as the grid word stored there (R73). -/
theorem hostReadWord_grid (s : State) {off : Nat} (hlo : 0x1000 ≤ off) (hhi : off < 0x2E00) :
    hostReadWord s off = readGridWord s off := by
  unfold hostReadWord
  iterate 8 rw [if_neg (by omega)]
  exact if_pos ⟨hlo, hhi⟩

/-- A reserved offset reads 0 (R76). -/
theorem hostReadWord_reserved (s : State) {off : Nat} (h : 0x024 ≤ off ∧ off < 0x1000 ∨ 0x2E00 ≤ off) :
    hostReadWord s off = 0#32 := by
  have hgrid : ¬(Config.gridBase ≤ off ∧ off < Config.gridEnd) := by
    simp only [Config.gridBase, Config.gridEnd]
    omega
  unfold hostReadWord
  iterate 8 rw [if_neg (by omega)]
  exact if_neg hgrid

/-- A write to a grid offset stores the word whole (R73, R74). -/
theorem hostWriteWord_grid (s : State) {off : Nat} (w : Word) (hlo : 0x1000 ≤ off) (hhi : off < 0x2E00) :
    hostWriteWord s off w = writeGridWord s off w := by
  unfold hostWriteWord
  iterate 5 rw [if_neg (by omega)]
  exact if_pos ⟨hlo, hhi⟩

/-- A write to a reserved offset stores nothing (R76). -/
theorem hostWriteWord_reserved (s : State) {off : Nat} (w : Word) (h : 0x024 ≤ off ∧ off < 0x1000 ∨ 0x2E00 ≤ off) :
    hostWriteWord s off w = s := by
  have hgrid : ¬(Config.gridBase ≤ off ∧ off < Config.gridEnd) := by
    simp only [Config.gridBase, Config.gridEnd]
    omega
  unfold hostWriteWord
  iterate 5 rw [if_neg (by omega)]
  exact if_neg hgrid

@[simp] theorem hostRead_status (w : AccessWidth) (off : Nat) (s : State) : (hostRead w off s).status = s.status := by
  unfold hostRead
  split <;> rfl

@[simp] theorem hostWriteWord_status (s : State) (off : Nat) (w : Word) : (hostWriteWord s off w).status = s.status := by
  simp [hostWriteWord, apply_ite State.status]

/-! ### STATUS after a command and after a step -/

theorem raise_nothing_status (e : ErrorCode) (st : StageCode) (s : State) :
    (raise .nothing e st s).status = s.status.finish e st := by rw [raise_nothing]

theorem reMap_status (v : Nat) (S : Vector Sample 432) (s : State) : (reMap v S s).status = s.status := by rw [reMap_eq]

theorem raise_decodeResult_status (e : ErrorCode) (st : StageCode) (s : State) :
    (raise .decodeResult e st s).status = s.status.finish e st := by
  cases h : st.isPipeline with
  | false => rw [raise_early _ _ _ _ h]
  | true => rw [raise_decodeResult _ _ _ h]

/-- INIT ends with one of its errors and no codec state, or with the enabled facets ready (R153). -/
theorem initCommand_status {p : Params} {s t : State} (h : initCommand p s = .next t) :
    (∃ e, e ≠ .ok ∧ t.status = (tearDown s).status.finish e .init) ∨
      (enEncField s.cfg || enDecField s.cfg) = true ∧
        t.status = Status.finish
          { s.status with ready := true, encReady := enEncField s.cfg, decReady := enDecField s.cfg } .ok .none := by
  rcases initCommand_cases p s with ⟨h', -⟩ | h' | ⟨c, h', -, hen⟩ <;> cases h.symm.trans h'
  · exact .inl ⟨.noFacet, by decide, raise_nothing_status ..⟩
  · exact .inl ⟨.initFail, by decide, raise_nothing_status ..⟩
  · exact .inr ⟨hen, rfl⟩

/-- DECODE ends with an error and CRC_OK = 0, or with the message its stages accept and CRC_OK = 1 (R155, R37). -/
theorem decodeCommand_status {p : Params} {s t : State} (h : decodeCommand p s = .next t) :
    (∃ e st, e ≠ .ok ∧ t.status = (clearCrcOk s).status.finish e st) ∨
      ∃ c code m, codecConfig s.cfg = some c ∧ s.code = some code ∧
        decodeSamples p c code (ssbOperand s.decSsb) (reDemap (refShift c.nid) s) = .ok m ∧
        t.status = Status.finish { s.status with crcOk := true } .ok .none := by
  rcases decodeCommand_cases p s with ⟨e, hpre, h'⟩ | ⟨-, h'⟩ | ⟨c, code, hpre, hcode, ⟨e, hd, h'⟩ | ⟨m, hd, h'⟩⟩ <;>
    cases h.symm.trans h'
  · have he : e ≠ .ok := by rcases precheckCodec_error hpre with rfl | rfl | rfl <;> decide
    exact .inl ⟨e, .none, he, raise_nothing_status ..⟩
  · have he : e.1 ≠ .ok := by rcases decodeSamples_error hd with rfl | rfl | rfl <;> decide
    exact .inl ⟨e.1, e.2, he, raise_decodeResult_status ..⟩
  · exact .inr ⟨c, code, m, (precheckCodec_ok.1 hpre).2.2, hcode, hd, rfl⟩

/-- A command other than INIT and DECODE writes ERR, STAGE and BUSY of STATUS and nothing else of it (R110). -/
theorem exec_status {i : Instr} {s t : State} (hi : i ≠ .init) (hd : i ≠ .decode) (h : exec i s = .next t) :
    ∃ e st, t.status = s.status.finish e st := by
  cases i with
  | init => exact absurd rfl hi
  | decode => exact absurd rfl hd
  | nop => cases h; exact ⟨_, _, rfl⟩
  | encode =>
    rcases encodeCommand_cases params s with ⟨e, -, h'⟩ | ⟨-, h'⟩ | ⟨c, code, -, -, h'⟩ <;> cases Eq.trans h.symm h'
    · exact ⟨_, _, raise_nothing_status ..⟩
    · exact ⟨_, _, by rw [complete_status, reMap_status]⟩
  | pack =>
    rcases packCommand_cases params s with ⟨-, h'⟩ | ⟨c, -, h'⟩ <;> cases Eq.trans h.symm h'
    · exact ⟨_, _, raise_nothing_status ..⟩
    · exact ⟨_, _, rfl⟩
  | unpack =>
    rcases unpackCommand_cases params s with ⟨-, h'⟩ | ⟨c, -, h'⟩ <;> cases Eq.trans h.symm h'
    · exact ⟨_, _, raise_nothing_status ..⟩
    · exact ⟨_, _, rfl⟩

/-- Only INIT writes READY (R35). -/
theorem exec_ready {i : Instr} {s t : State} (hi : i ≠ .init) (h : exec i s = .next t) :
    t.status.ready = s.status.ready := by
  by_cases hd : i = .decode
  · subst hd
    rcases decodeCommand_status h with ⟨e, st, -, ht⟩ | ⟨c, code, m, -, -, -, ht⟩ <;> rw [ht] <;> rfl
  · obtain ⟨e, st, ht⟩ := exec_status hi hd h
    rw [ht, finish_ready]

/-- Only DECODE writes CRC_OK (R37). -/
theorem exec_crcOk {i : Instr} {s t : State} (hd : i ≠ .decode) (h : exec i s = .next t) :
    t.status.crcOk = s.status.crcOk := by
  by_cases hi : i = .init
  · subst hi
    rcases initCommand_status h with ⟨e, -, ht⟩ | ⟨-, ht⟩ <;> rw [ht] <;> rfl
  · obtain ⟨e, st, ht⟩ := exec_status hi hd h
    rw [ht, finish_crcOk]

/-- What a step does to STATUS: nothing, unless it is a platform reset, a command, or a reserved OP. -/
theorem step_status_cases {s t : State} (h : step s = .next t) :
    t.status = s.status ∨
      (∃ rest, s.pending = .reset :: rest ∧ t.status = .reset) ∨
      (∃ w rest i, s.pending = .write .w32 0 w :: rest ∧ decode w = .ok i ∧
        exec i (beginCommand { s with pending := rest }) = .next t) ∨
      t.status = s.status.finish .illegalCmd .none := by
  cases hp : s.pending with
  | nil =>
    cases h.symm.trans (step_idle hp)
    exact .inl rfl
  | cons e rest =>
    rw [step_event hp] at h
    rcases serveEvent_cases h with ⟨rfl, rfl⟩ | ⟨w, off, rfl, -, ht⟩ | ⟨w, off, data, rfl, -, -, rfl | ⟨-, -, rfl⟩⟩ |
      ⟨data, i, rfl, hd, -, hx⟩ | ⟨data, op, rfl, -, -, rfl⟩
    · exact .inr (.inl ⟨rest, rfl, rfl⟩)
    · exact .inl (by rw [ht])
    · exact .inl rfl
    · exact .inl (hostWriteWord_status ..)
    · exact .inr (.inr (.inl ⟨data, rest, i, rfl, hd, hx⟩))
    · exact .inr (.inr (.inr (raise_nothing_status ..)))

/-- While READY is 0 the first check of ENCODE and DECODE fails (spec/60_exceptions.md R282, R284). -/
theorem precheckCodec_of_not_ready (f : Facet) {s : State} (h : s.status.ready = false) :
    precheckCodec f s = .error .notReady := if_pos h

/-- Samples DECODE accepts pass every one of its three checks (R155). -/
theorem decodeSamples_checks {p : Params} {c : CodecConfig} {code : PolarCode} {issb : BitVec 6} {Y : Vector Sample 432}
    {m : Message} (h : decodeSamples p c code issb Y = .ok m) :
    let rm := p.rmRx rateMatchCall (descr2Soft p.prbs c.nid c.lmax issb (qpskDemap p.demod Y))
    rm.2 = true ∧ (p.polarDecode rm.1 code).2 = true ∧ p.crcCheck (p.polarDecode rm.1 code).1 = true := by
  unfold decodeSamples at h
  simp only at h
  split at h
  · cases h
  · split at h
    · cases h
    · split at h
      · cases h
      · simp_all

/-! ### The invariant during a command -/

/-- What holds while a command runs: were the command to end now, the invariant would hold. BUSY, ERR and STAGE are free, since a
command's end writes them. -/
def InvAtEnd (s : State) : Prop := Inv (complete s)

theorem Inv.beginCommand {s : State} (h : Inv s) : InvAtEnd (beginCommand s) :=
  { h with not_busy := rfl, status_legal := rfl }

/-- A command's end with a legal pair of ERR and STAGE gives the invariant (spec/60_exceptions.md R292). -/
theorem InvAtEnd.finish {s : State} (h : InvAtEnd s) {e : ErrorCode} {st : StageCode}
    (hl : (s.status.finish e st).legal = true) : Inv { s with status := s.status.finish e st } :=
  { h with not_busy := rfl, status_legal := hl }

theorem InvAtEnd.raise_nothing {s : State} (h : InvAtEnd s) {e : ErrorCode} {st : StageCode}
    (hl : (s.status.finish e st).legal = true) : Inv (raise .nothing e st s) := by
  rw [Machine.raise_nothing]
  exact h.finish hl

theorem InvAtEnd.tearDown {s : State} (h : InvAtEnd s) : InvAtEnd (tearDown s) :=
  { h with ready_code := rfl, code_length := fun _ hc => (nomatch hc), ready_facet := rfl }

/-- The codec state INIT builds has at least one facet and a CODE of the length it checked (R153). -/
theorem InvAtEnd.buildCodec {s : State} (h : InvAtEnd s) {c : PolarCode} {enE enD : Bool}
    (hc : c.motherLength = Config.motherLen) (hen : (enE || enD) = true) : InvAtEnd (buildCodec c enE enD s) :=
  { h with ready_code := rfl, code_length := fun _ hc' => Option.some.inj hc' ▸ hc, ready_facet := hen.symm }

theorem InvAtEnd.clearCrcOk {s : State} (h : InvAtEnd s) : InvAtEnd (clearCrcOk s) := { h with }

theorem InvAtEnd.writeResult {s : State} (h : InvAtEnd s) (m : Message) : InvAtEnd (writeResult m s) :=
  { h with resCtrl_reserved := ctrlWord_reserved m, resPayload_reserved := payloadWord_reserved m }

theorem InvAtEnd.acceptMessage {s : State} (h : InvAtEnd s) (m : Message) : Inv (acceptMessage m s) :=
  { h.writeResult m with }

theorem InvAtEnd.drawResult {s : State} (h : InvAtEnd s) : InvAtEnd (drawResult s) :=
  { h with resCtrl_reserved := and_mask_reserved _ _, resPayload_reserved := and_mask_reserved _ _ }

theorem InvAtEnd.reMap {s : State} (h : InvAtEnd s) (v : Nat) (S : Vector Sample 432) : InvAtEnd (reMap v S s) := by
  have hwf : (Machine.reMap v S s).grid.wf = true := reMap_grid_wf h.grid_wf
  rw [reMap_eq]
  exact { h with grid_wf := hwf }

theorem initCommand_inv {p : Params} {s t : State} (hi : InvAtEnd s) (h : initCommand p s = .next t) : Inv t := by
  rcases initCommand_cases p s with ⟨h', -⟩ | h' | ⟨c, h', hc, hen⟩ <;> cases h.symm.trans h'
  · exact hi.tearDown.raise_nothing rfl
  · exact hi.tearDown.raise_nothing rfl
  · exact hi.tearDown.buildCodec (initCode_length hc) hen

theorem encodeCommand_inv {p : Params} {s t : State} (hi : InvAtEnd s) (h : encodeCommand p s = .next t) : Inv t := by
  rcases encodeCommand_cases p s with ⟨e, hpre, h'⟩ | ⟨-, h'⟩ | ⟨c, code, -, -, h'⟩ <;> cases h.symm.trans h'
  · exact hi.raise_nothing (by rcases precheckCodec_error hpre with rfl | rfl | rfl <;> rfl)
  · exact hi.reMap _ _

theorem decodeCommand_inv {p : Params} {s t : State} (hi : InvAtEnd s) (h : decodeCommand p s = .next t) : Inv t := by
  rcases decodeCommand_cases p s with ⟨e, hpre, h'⟩ | ⟨-, h'⟩ | ⟨c, code, -, -, ⟨e, hd, h'⟩ | ⟨m, -, h'⟩⟩ <;>
    cases h.symm.trans h'
  · exact hi.clearCrcOk.raise_nothing (by rcases precheckCodec_error hpre with rfl | rfl | rfl <;> rfl)
  · rcases decodeSamples_error hd with rfl | rfl | rfl <;> exact hi.clearCrcOk.drawResult.finish rfl
  · exact hi.clearCrcOk.acceptMessage m

theorem packCommand_inv {p : Params} {s t : State} (hi : InvAtEnd s) (h : packCommand p s = .next t) : Inv t := by
  rcases packCommand_cases p s with ⟨-, h'⟩ | ⟨c, -, h'⟩ <;> cases h.symm.trans h'
  · exact hi.raise_nothing rfl
  · exact { hi with }

theorem unpackCommand_inv {p : Params} {s t : State} (hi : InvAtEnd s) (h : unpackCommand p s = .next t) : Inv t := by
  rcases unpackCommand_cases p s with ⟨-, h'⟩ | ⟨c, -, h'⟩ <;> cases h.symm.trans h'
  · exact hi.raise_nothing rfl
  · exact hi.writeResult _

/-- Every command that answers ends in a state with the invariant. -/
theorem exec_inv {i : Instr} {s t : State} (hi : InvAtEnd s) (h : exec i s = .next t) : Inv t := by
  cases i with
  | nop => cases h; exact hi
  | init => exact initCommand_inv hi h
  | encode => exact encodeCommand_inv hi h
  | decode => exact decodeCommand_inv hi h
  | pack => exact packCommand_inv hi h
  | unpack => exact unpackCommand_inv hi h

/-! ### The invariant at the events of the host and the platform -/

theorem inv_reset : Inv State.reset where
  grid_wf := wf_reset
  cfg_reserved := rfl
  msgCtrl_reserved := rfl
  msgPayload_reserved := rfl
  decSsb_reserved := rfl
  resCtrl_reserved := rfl
  resPayload_reserved := rfl
  not_busy := rfl
  ready_code := rfl
  code_length := fun _ hc => nomatch hc
  ready_facet := rfl
  status_legal := rfl

/-- A host write outside CMD keeps the invariant: it stores under the register's mask, or inside the grid (R74). -/
theorem Inv.hostWriteWord {s : State} (h : Inv s) {off : Nat} (w : Word) (h4 : off % 4 = 0) :
    Inv (hostWriteWord s off w) := by
  rcases hostWriteWord_cases s off w h4 with he | he | he | he | he | ⟨hlo, hhi, he⟩ | he <;> rw [he]
  · exact { h with cfg_reserved := and_mask_reserved _ _ }
  · exact { h with msgCtrl_reserved := and_mask_reserved _ _ }
  · exact { h with msgPayload_reserved := and_mask_reserved _ _ }
  · exact { h with decSsb_reserved := and_mask_reserved _ _ }
  · exact { h with }
  · exact { h with grid_wf := Memory.wf_writeWord _ h.grid_wf hlo hhi }
  · exact h

theorem serveEvent_inv {e : HostEvent} {s t : State} (hi : Inv s) (h : serveEvent e s = .next t) : Inv t := by
  rcases serveEvent_cases h with ⟨-, rfl⟩ | ⟨w, off, -, -, ht⟩ | ⟨w, off, data, -, -, -, rfl | ⟨-, h4, rfl⟩⟩ |
    ⟨data, i, -, -, -, hx⟩ | ⟨data, op, -, -, -, rfl⟩
  · exact { inv_reset with }
  · rw [ht]; exact { hi with }
  · exact hi
  · exact hi.hostWriteWord data h4
  · exact exec_inv hi.beginCommand hx
  · exact hi.beginCommand.raise_nothing rfl

/-! ### The statements -/

/-- Settles O15: by what a step can do, from the invariant during a command and at each event. -/
theorem stepKeepsInvariant : Obligations.StepKeepsInvariant := by
  intro s t hi h
  cases hp : s.pending with
  | nil => cases h.symm.trans (step_idle hp); exact hi
  | cons e rest => exact serveEvent_inv (s := { s with pending := rest }) { hi with } (step_event hp ▸ h)

/-- Settles O5: the word is `hostReadWord`, clause by clause. -/
theorem hostReadReturnsRegister : Obligations.HostReadReturnsRegister := by
  intro s off rest hp hb h4 hlt
  refine ⟨hostReadWord s off, step_read hp hb h4 hlt, ?_, ?_, ?_, ?_, ?_, ?_, ?_, ?_, ?_, fun i hi ho => ?_, fun i hi ho => ?_,
    fun hlo hhi => hostReadWord_reserved s (.inl ⟨hlo, hhi⟩), fun hhi => hostReadWord_reserved s (.inr hhi)⟩
  iterate 9 · rintro rfl; rfl
  all_goals
    rw [hostReadWord_grid s (by omega) (by omega), ho]
    rfl

/-- Settles O6: each offset's store is one branch of `hostWriteWord`; the grid clause reads the stored word back. -/
theorem hostWriteStoresDefinedFields : Obligations.HostWriteStoresDefinedFields := by
  intro s off w rest hp hb
  refine ⟨?_, ?_, ?_, ?_, ?_, ?_, fun h4 hr => ?_, fun h4 hlo hhi => ?_⟩
  iterate 5 · rintro rfl; exact step_write hp hb rfl (by decide) (by decide)
  · rintro (rfl | rfl | rfl) <;> exact step_write hp hb rfl (by decide) (by decide)
  · rw [step_write hp hb h4 (by omega) (by omega), hostWriteWord_reserved _ _ (by omega)]
  · refine ⟨writeGridWord { s with pending := rest } off w, ?_, rfl, ?_, fun a ha => ?_⟩
    · rw [step_write hp hb h4 (by omega) (by omega), hostWriteWord_grid _ _ hlo hhi]
    · rw [hostReadWord_grid _ hlo hhi, readGridWord_writeGridWord_same]
    · exact (gridByte_writeGridWord_of_not_mem _ _ _ _ ha).trans (gridByte_congr rfl rfl a)

/-- Settles O17: of all that a step can do to STATUS, only an INIT that builds a facet leaves READY = 1 where it was 0. -/
theorem readySetOnlyByInit : Obligations.ReadySetOnlyByInit := by
  refine ⟨fun s t h h0 h1 => ?_, fun s t h he => ?_, fun s => rfl, fun s h0 => ?_⟩
  · rcases step_status_cases h with ht | ⟨rest, -, ht⟩ | ⟨w, rest, i, hp, hd, hx⟩ | ht
    · rw [ht, h0] at h1; cases h1
    · rw [ht] at h1; cases h1
    · by_cases hi : i = .init
      · subst hi
        rcases initCommand_status hx with ⟨e, -, ht⟩ | ⟨hen, ht⟩
        · rw [ht] at h1; cases h1
        · exact ⟨w, rest, hp, hd, by rw [ht, finish_err], hen⟩
      · rw [exec_ready hi hx, beginCommand_status, h0] at h1; cases h1
    · rw [ht, finish_ready, h0] at h1; cases h1
  · rcases initCommand_status h with ⟨e, -, ht⟩ | ⟨-, ht⟩
    · rw [ht]; rfl
    · rw [ht] at he; exact absurd rfl he
  · exact ⟨_, _, encodeCommand_of_error (precheckCodec_of_not_ready .enc h0), rfl,
      decodeCommand_of_error (precheckCodec_of_not_ready .dec h0), rfl⟩

/-- Settles O34: the two ends of DECODE give the first clause; no other command and no host access writes CRC_OK. -/
theorem crcOkReportsAcceptance : Obligations.CrcOkReportsAcceptance := by
  refine ⟨fun p s t h => ?_, fun i s t hd h => exec_crcOk hd h, fun s t h hne => ?_,
    fun s w off d => ⟨by rw [hostRead_status], by rw [hostWriteWord_status]⟩⟩
  · rcases decodeCommand_status h with ⟨e, st, he, ht⟩ | ⟨c, code, m, hc, hcode, hm, ht⟩
    · simp [ht, he]
    · exact ⟨by simp [ht], fun _ => ⟨c, code, hc, hcode, decodeSamples_checks hm⟩⟩
  · rcases step_status_cases h with ht | ⟨rest, hp, ht⟩ | ⟨w, rest, i, hp, hd, hx⟩ | ht
    · rw [ht] at hne; exact absurd rfl hne
    · exact .inl ⟨by rw [ht]; rfl, rest, hp⟩
    · by_cases hi : i = .decode
      · exact .inr ⟨w, rest, hp, hi ▸ hd⟩
      · exact absurd (exec_crcOk hi hx) hne
    · rw [ht] at hne; exact absurd rfl hne

/-- Settles O55: each operand is a field of its register. -/
theorem operandsReadFromRegisterFields : Obligations.OperandsReadFromRegisterFields := by
  refine ⟨fun cfg => ⟨fun hn hk => ?_, fun hn hk => ?_, fun hn hk => ?_, codecConfig_none_of_fields, rfl, rfl⟩,
    fun ctrl payload => ⟨fun b hb => getLsbD_lowField ctrl hb, rfl, rfl, fun b hb => getLsbD_field ctrl 8 hb,
      fun i hi => getLsbD_lowField payload hi⟩, fun decSsb b hb => getLsbD_lowField decSsb hb⟩
  · exact codecConfig_of_fields (k := 0#2) hn hk rfl
  · exact codecConfig_of_fields (k := 1#2) hn hk rfl
  · exact codecConfig_of_fields (k := 2#2) hn hk rfl

/-- Settles O9. -/
theorem idleBlockKeepsItsState : Obligations.IdleBlockKeepsItsState := fun _ => step_idle

/-- Settles O13: each register's read of the reset state evaluates to 0. -/
theorem registersReadZeroAfterReset : Obligations.RegistersReadZeroAfterReset :=
  ⟨by decide, rfl, rfl, rfl⟩

/-- Settles O14. -/
theorem invariantAfterReset : Obligations.InvariantAfterReset := inv_reset

end Sys2Proof.Machine
end

section
/-! PROOFS. Accesses to the aperture: where a step stops, the accesses the block ignores, the bus addresses it answers to, and what
the host and ENCODE write to the grid (spec/20_memory.md, spec/44_qpsk.md R232). -/

namespace Sys2Proof.Machine

/-! ### Where a command stops (log 14) -/

/-- The checks of `precheckCodec` pass for some configuration exactly when the block is ready, the facet is built and CFG is legal
(spec/60_exceptions.md R282). -/
theorem exists_precheckCodec_ok {f : Facet} {s : State} :
    (∃ c, precheckCodec f s = .ok c) ↔
      s.status.ready = true ∧ facetReady f s.status = true ∧ codecConfig s.cfg ≠ none := by
  simp only [precheckCodec_ok, exists_and_left, Option.ne_none_iff_exists']

theorem encodeCommand_fault_iff {p : Params} {s : State} {f : Fault} :
    encodeCommand p s = .fault f ↔ f = .codeAbsent ∧ s.code = none ∧ ∃ c, precheckCodec .enc s = .ok c := by
  cases hp : precheckCodec .enc s with
  | error e => simp [encodeCommand_of_error hp]
  | ok c =>
    cases hc : s.code with
    | some code => simp [encodeCommand_of_ok hp hc]
    | none => simp [encodeCommand, hp, hc, eq_comm]

theorem decodeCommand_fault_iff {p : Params} {s : State} {f : Fault} :
    decodeCommand p s = .fault f ↔ f = .codeAbsent ∧ s.code = none ∧ ∃ c, precheckCodec .dec s = .ok c := by
  cases hp : precheckCodec .dec s with
  | error e => simp [decodeCommand_of_error hp]
  | ok c =>
    cases hc : s.code with
    | some code => simp [decodeCommand_of_ok hp hc]
    | none =>
      have hp' : precheckCodec .dec (clearCrcOk s) = .ok c := hp
      simp [decodeCommand, hp', hc, eq_comm]

/-- Every command but ENCODE and DECODE answers a next state from every state. -/
theorem exec_answers {i : Instr} (he : i ≠ .encode) (hd : i ≠ .decode) (s : State) : ∃ t, exec i s = .next t := by
  cases i with
  | nop => exact ⟨_, rfl⟩
  | init => rcases initCommand_cases params s with ⟨h, -⟩ | h | ⟨c, h, -⟩ <;> exact ⟨_, h⟩
  | encode => exact absurd rfl he
  | decode => exact absurd rfl hd
  | pack => rcases packCommand_cases params s with ⟨-, h⟩ | ⟨c, -, h⟩ <;> exact ⟨_, h⟩
  | unpack => rcases unpackCommand_cases params s with ⟨-, h⟩ | ⟨c, -, h⟩ <;> exact ⟨_, h⟩

/-- A command faults exactly when it is an ENCODE or a DECODE past its checks in a state with no CODE. -/
theorem exec_fault_iff {i : Instr} {s : State} {f : Fault} :
    exec i s = .fault f ↔
      f = .codeAbsent ∧ s.status.ready = true ∧ s.code = none ∧ codecConfig s.cfg ≠ none ∧
        (i = .encode ∧ s.status.encReady = true ∨ i = .decode ∧ s.status.decReady = true) := by
  by_cases he : i = .encode
  · subst he
    rw [show exec .encode s = encodeCommand params s from rfl, encodeCommand_fault_iff, exists_precheckCodec_ok]
    simp only [facetReady, true_and, reduceCtorEq, false_and, or_false]
    tauto
  · by_cases hd : i = .decode
    · subst hd
      rw [show exec .decode s = decodeCommand params s from rfl, decodeCommand_fault_iff, exists_precheckCodec_ok]
      simp only [facetReady, true_and, reduceCtorEq, false_and, false_or]
      tauto
    · obtain ⟨t, ht⟩ := exec_answers he hd s
      simp [ht, he, hd]

/-! ### Where a host write stops -/

/-- A write of CMD stops only where the command it starts does; a reserved OP answers (R102). -/
theorem startCommand_fault_iff {w : Word} {s : State} {f : Fault} :
    startCommand w s = .fault f ↔ ∃ i, decode w = .ok i ∧ exec i (beginCommand s) = .fault f := by
  unfold startCommand
  cases decode w <;> simp

theorem startCommand_ne_refused (w : Word) (s : State) (r : Refusal) : startCommand w s ≠ .refused r := by
  unfold startCommand
  cases decode w with
  | ok i => exact exec_stops.1 r
  | error e => simp

/-- A host write answers a next state, unless it is a 32-bit write of CMD, which starts a command. -/
theorem hostWrite_cases (w : AccessWidth) (off : Nat) (data : Word) (s : State) :
    (w = .w32 ∧ off = 0 ∧ hostWrite w off data s = startCommand data s) ∨
      (¬(w = .w32 ∧ off = 0) ∧ ∃ t, hostWrite w off data s = .next t) := by
  by_cases hcmd : w = .w32 ∧ off = 0
  · obtain ⟨rfl, rfl⟩ := hcmd
    exact .inl ⟨rfl, rfl, rfl⟩
  · refine .inr ⟨hcmd, ?_⟩
    unfold hostWrite
    split
    · next hs =>
      have hoff : ¬off = cmdOffset := fun hoff => hcmd ⟨(served_iff.1 hs).1, hoff⟩
      exact ⟨_, if_neg hoff⟩
    · exact ⟨_, rfl⟩

theorem hostWrite_fault_iff {w : AccessWidth} {off : Nat} {data : Word} {s : State} {f : Fault} :
    hostWrite w off data s = .fault f ↔
      w = .w32 ∧ off = 0 ∧ ∃ i, decode data = .ok i ∧ exec i (beginCommand s) = .fault f := by
  rcases hostWrite_cases w off data s with ⟨hw, hoff, h⟩ | ⟨hcmd, t, h⟩
  · rw [h, startCommand_fault_iff]
    simp [hw, hoff]
  · simp only [h, reduceCtorEq, false_iff]
    exact fun ⟨hw, hoff, _⟩ => hcmd ⟨hw, hoff⟩

theorem hostWrite_ne_refused (w : AccessWidth) (off : Nat) (data : Word) (s : State) (r : Refusal) :
    hostWrite w off data s ≠ .refused r := by
  rcases hostWrite_cases w off data s with ⟨-, -, h⟩ | ⟨-, t, h⟩ <;> rw [h]
  · exact startCommand_ne_refused data s r
  · simp

/-! ### Where an event stops (log 3, log 13) -/

theorem serveEvent_read_fault_iff {w : AccessWidth} {off : Nat} {s : State} {f : Fault} :
    serveEvent (.read w off) s = .fault f ↔ f = .outsideAperture off ∧ 0x4000 ≤ off := by
  by_cases hoff : 0x4000 ≤ off
  · simp [serveEvent, hoff, eq_comm]
  · simp only [serveEvent, hoff, if_false]
    split <;> simp

theorem serveEvent_write_fault_iff {w : AccessWidth} {off : Nat} {data : Word} {s : State} {f : Fault} :
    serveEvent (.write w off data) s = .fault f ↔
      f = .outsideAperture off ∧ 0x4000 ≤ off ∨
        s.status.busy = false ∧ w = .w32 ∧ off = 0 ∧ ∃ i, decode data = .ok i ∧ exec i (beginCommand s) = .fault f := by
  by_cases hoff : 0x4000 ≤ off
  · simp [serveEvent, hoff, show off ≠ 0 by omega, eq_comm (a := f)]
  · cases hb : s.status.busy with
    | true => simp [serveEvent, hoff, hb]
    | false => simp [serveEvent, hoff, hb, hostWrite_fault_iff]

theorem serveEvent_read_refused_iff {w : AccessWidth} {off : Nat} {s : State} {r : Refusal} :
    serveEvent (.read w off) s = .refused r ↔
      r = .hostAccessWhileBusy ∧ s.status.busy = true ∧ off < 0x4000 ∧ ¬(w = .w32 ∧ off = 0x004) := by
  by_cases hoff : 0x4000 ≤ off
  · simp [serveEvent, hoff]
  · simp only [serveEvent, hoff, if_false]
    by_cases h : s.status.busy = true ∧ ¬(w = .w32 ∧ off = statusOffset)
    · rw [if_pos h, Host.Outcome.refused.injEq]
      exact ⟨fun hr => ⟨hr.symm, h.1, Nat.lt_of_not_le hoff, h.2⟩, fun ⟨hr, _⟩ => hr.symm⟩
    · rw [if_neg h]
      simp only [reduceCtorEq, false_iff]
      exact fun ⟨_, hb, _, hw⟩ => h ⟨hb, hw⟩

theorem serveEvent_write_refused_iff {w : AccessWidth} {off : Nat} {data : Word} {s : State} {r : Refusal} :
    serveEvent (.write w off data) s = .refused r ↔
      r = .hostAccessWhileBusy ∧ s.status.busy = true ∧ off < 0x4000 := by
  by_cases hoff : 0x4000 ≤ off
  · simp [serveEvent, hoff]
  · cases hb : s.status.busy with
    | true => simp [serveEvent, hoff, hb, Nat.lt_of_not_le hoff, eq_comm (a := r)]
    | false => simp [serveEvent, hoff, hb, hostWrite_ne_refused]

/-! ### Where a step stops -/

/-- A step faults for an access outside the aperture, or where the command a write of CMD starts does. -/
theorem step_fault_iff {s : State} {f : Fault} :
    step s = .fault f ↔
      (∃ off, f = .outsideAperture off ∧ 0x4000 ≤ off ∧
        ∃ w rest, s.pending = .read w off :: rest ∨ ∃ d, s.pending = .write w off d :: rest) ∨
      s.status.busy = false ∧ ∃ w rest, s.pending = .write .w32 0 w :: rest ∧
        ∃ i, decode w = .ok i ∧ exec i (beginCommand { s with pending := rest }) = .fault f := by
  cases hp : s.pending with
  | nil => simp [step_idle hp]
  | cons e rest =>
    rw [step_event hp]
    cases e with
    | reset => simp [serveEvent]
    | read w off =>
      rw [serveEvent_read_fault_iff]
      simp
    | write w off d =>
      rw [serveEvent_write_fault_iff]
      simp [and_assoc]

/-- A step is refused exactly for an access in the aperture, but a 32-bit read of STATUS, while BUSY = 1. -/
theorem step_refused_iff {s : State} {r : Refusal} :
    step s = .refused r ↔
      r = .hostAccessWhileBusy ∧ s.status.busy = true ∧
        ∃ w off rest, off < 0x4000 ∧
          (s.pending = .read w off :: rest ∧ ¬(w = .w32 ∧ off = 0x004) ∨ ∃ d, s.pending = .write w off d :: rest) := by
  cases hp : s.pending with
  | nil => simp [step_idle hp]
  | cons e rest =>
    rw [step_event hp]
    cases e with
    | reset => simp [serveEvent]
    | read w off =>
      rw [serveEvent_read_refused_iff]
      simp
    | write w off d =>
      rw [serveEvent_write_refused_iff]
      simp

/-- Settles O11: a step stops where its event does, and a command stops only for want of CODE. -/
theorem everyStopIsNamed : Obligations.EveryStopIsNamed := by
  refine ⟨fun s off => ?_, fun s => ?_, fun s r => step_refused_iff⟩
  · simp [step_fault_iff, exec_fault_iff]
  · simp only [step_fault_iff, exec_fault_iff, reduceCtorEq, false_and, exists_false, false_or, true_and]
    constructor
    · rintro ⟨hb, w, rest, hp, i, hd, hready, hcode, hcfg, ⟨rfl, hf⟩ | ⟨rfl, hf⟩⟩
      · exact ⟨hb, hready, hcode, hcfg, w, rest, hp, .inl ⟨hd, hf⟩⟩
      · exact ⟨hb, hready, hcode, hcfg, w, rest, hp, .inr ⟨hd, hf⟩⟩
    · rintro ⟨hb, hready, hcode, hcfg, w, rest, hp, ⟨hd, hf⟩ | ⟨hd, hf⟩⟩
      · exact ⟨hb, w, rest, hp, _, hd, hready, hcode, hcfg, .inl ⟨rfl, hf⟩⟩
      · exact ⟨hb, w, rest, hp, _, hd, hready, hcode, hcfg, .inr ⟨rfl, hf⟩⟩

/-! ### Grid elements -/

/-- A step that answers is the first of a run. -/
theorem run_succ_of_step {s t : State} (h : step s = .next t) (k : Nat) :
    Host.Core.run core (k + 1) s = Host.Core.run core k t := by
  simp only [Host.Core.run, show core.step s = .next t from h]

/-- A 32-bit write to an aligned grid offset stores the word whole (R73, R74). -/
theorem step_write_grid {s : State} {off : Nat} {w : Word} {rest : List HostEvent}
    (hp : s.pending = .write .w32 off w :: rest) (hb : s.status.busy = false) (h4 : off % 4 = 0) (hlo : 0x1000 ≤ off)
    (hhi : off < 0x2E00) : step s = .next (writeGridWord { s with pending := rest } off w) := by
  rw [step_write hp hb h4 (by omega) (by omega), hostWriteWord_grid _ _ hlo hhi]

/-- The two writes of a grid element, served one after the other, are one write of the element (R73, R79). -/
theorem run_element_writes {s : State} {i : Nat} {x : Sample} {rest : List HostEvent} (hi : i < 960)
    (hb : s.status.busy = false)
    (hp : s.pending = .write .w32 (0x1000 + 8 * i) x.re :: .write .w32 (0x1000 + 8 * i + 4) x.im :: rest) :
    Host.Core.run core 2 s = .next (memWrite { s with pending := rest } i x) := by
  have first := step_write_grid hp hb (by omega) (by omega) (by omega)
  have second := step_write_grid (off := 0x1000 + 8 * i + 4) (w := x.im) (rest := rest)
    (s := writeGridWord { s with pending := _ } (0x1000 + 8 * i) x.re) rfl hb (by omega) (by omega) (by omega)
  exact (run_succ_of_step first 1).trans (run_succ_of_step second 0)

/-- Settles O7: the two writes are one `memWrite` of the element, and its rules give the rest. -/
theorem gridElementWrittenWhole : Obligations.GridElementWrittenWhole := by
  intro s i x rest hi hb hp
  refine ⟨_, run_element_writes hi hb hp, rfl, ?_, fun j hj => ?_, fun a ha => ?_⟩
  · rw [memRead_memWrite, if_pos rfl]
  · rw [memRead_memWrite, if_neg hj]
    exact memRead_congr rfl rfl j
  · exact (gridByte_memWrite_of_not_mem _ _ _ _ ha).trans (gridByte_congr rfl rfl a)

/-! ### What ENCODE writes to the grid -/

/-- Every listed element holds one of the writer's symbols (R257). -/
theorem exists_memRead_reMap {v i : Nat} (hv : v < 4) (S : Vector Sample 432) (s : State) (hi : i ∈ pbchRE v) :
    ∃ n : Fin 432, memRead (reMap v S s) i = S[n] := by
  obtain ⟨n, hn, rfl⟩ := List.getElem_of_mem hi
  have h := memRead_reMap hv S s ⟨n, pbchRE_length hv ▸ hn⟩
  rw [List.getD_eq_getElem _ _ hn] at h
  exact ⟨_, h⟩

/-- Every symbol of a message is a point of the constellation (R230). -/
theorem encodeSymbols_point (p : Params) (c : CodecConfig) (code : PolarCode) (m : Message) (n : Fin 432) :
    ∃ b0 b1, (encodeSymbols p c code m)[n] = qpskPoint b0 b1 := by
  simp only [encodeSymbols, qpskMap, Fin.getElem_fin, Vector.getElem_ofFn]
  exact ⟨_, _, rfl⟩

/-- The four points of the constellation, as word pairs (R231, R232). -/
theorem qpskPoint_mem (b0 b1 : Bool) :
    qpskPoint b0 b1 ∈ [Sample.mk 0x3F3504F3#32 0x3F3504F3#32, Sample.mk 0x3F3504F3#32 0xBF3504F3#32,
      Sample.mk 0xBF3504F3#32 0x3F3504F3#32, Sample.mk 0xBF3504F3#32 0xBF3504F3#32] := by
  revert b0 b1
  decide

/-- Settles O30: only the writer changes the grid, only at the data elements, and its symbols are constellation points. -/
theorem encodeWritesOnlyConstellation : Obligations.EncodeWritesOnlyConstellation := by
  intro p s t i h hne
  rcases encodeCommand_cases p s with ⟨e, -, h'⟩ | ⟨-, h'⟩ | ⟨c, code, hpre, -, h'⟩ <;> cases h.symm.trans h'
  · rw [raise_nothing] at hne
    exact absurd (memRead_congr rfl rfl i) hne
  · obtain ⟨-, -, hcfg⟩ := precheckCodec_ok.1 hpre
    obtain ⟨-, -, hnid⟩ := codecConfig_some.1 hcfg
    have hend : ∀ u : State, memRead (complete u) i = memRead u i := fun u => memRead_congr rfl rfl i
    rw [hend] at hne ⊢
    have hi : i ∈ pbchRE (refShift c.nid) := by
      by_contra hi
      exact hne (memRead_reMap_of_not_mem _ _ hi)
    obtain ⟨n, hn⟩ := exists_memRead_reMap (refShift_lt c.nid) _ s hi
    obtain ⟨b0, b1, hb⟩ := encodeSymbols_point p c code (messageOperand s.msgCtrl s.msgPayload) n
    rw [hn, hb, ← hnid]
    exact ⟨hi, qpskPoint_mem b0 b1⟩

/-! ### Accesses the block ignores (R78) -/

theorem served_eq_false {w : AccessWidth} {off : Nat} (h : w ≠ .w32 ∨ off % 4 ≠ 0) : served w off = false := by
  rw [← Bool.not_eq_true, served_iff]
  tauto

/-- Settles O8: an access that is not served takes the last branch of `hostRead` or `hostWrite`. -/
theorem unservedAccessIgnored : Obligations.UnservedAccessIgnored := by
  intro s width off rest hlt hb hu
  have hs := served_eq_false hu
  have hin : ¬Config.apertureSize ≤ off := Nat.not_le.2 hlt
  refine ⟨fun hp => ?_, fun w hp => ?_⟩
  · simp [step_event hp, serveEvent, hin, hb, hostRead, hs]
  · simp [step_event hp, serveEvent, hin, hb, hostWrite, hs]

/-! ### Bus addresses (R75) -/

theorem apertureOffset_add (base : Nat) {off : Nat} (h : off < 0x4000) : apertureOffset base (base + off) = some off := by
  rw [apertureOffset, if_pos ⟨Nat.le_add_right .., Nat.add_lt_add_left h base⟩, Nat.add_sub_cancel_left]

theorem apertureOffset_outside {base addr : Nat} (h : addr < base ∨ base + 0x4000 ≤ addr) :
    apertureOffset base addr = none := by
  refine if_neg fun ⟨hlo, hhi⟩ => ?_
  simp only [Config.apertureSize] at hhi
  omega

/-- BASE is aligned to the aperture's size. -/
theorem base_mod : Config.base % 0x4000 = 0 := by
  unfold Config.base Config.apertureSize
  omega

/-- Settles O12, for every value of the free base index. -/
theorem busAddressNamesOffset : Obligations.BusAddressNamesOffset := by
  refine ⟨base_mod, fun off w h => ?_, fun addr w h => ?_⟩
  · have hoff := apertureOffset_add Config.base h
    simp only [busWrite, busRead, hoff, Option.map_some, and_self]
  · have hoff := apertureOffset_outside h
    simp only [busWrite, busRead, hoff, Option.map_none, and_self]

end Sys2Proof.Machine
end

section
/-! PROOFS. The encoding: the command word and its decoder, the step that runs a decoded command, the bits of the STATUS word, and
the registers each command leaves alone (spec/30_encoding.md). -/

namespace Sys2Proof.Machine

/-! ### The command word (R100 to R103) -/

theorem toNat_opField (w : Word) : (opField w).toNat = w.toNat % 256 := by
  simp [opField, BitVec.extractLsb'_toNat]

/-- A command word is its ignored bits above its OP (R100). -/
theorem append_opField (w : Word) : w.extractLsb' 8 24 ++ opField w = w :=
  (BitVec.extractLsb'_append_extractLsb'_eq_extractLsb' rfl).trans BitVec.extractLsb'_eq_self

/-- The opcodes of the six commands are the bytes up to 5 (R101). -/
theorem exists_opcode_iff {x : BitVec 8} : (∃ i : Instr, x = i.opcode) ↔ x.toNat ≤ 5 := by
  constructor
  · rintro ⟨i, rfl⟩
    cases i <;> decide
  · intro h
    have hx : x = BitVec.ofNat 8 x.toNat := by simp
    generalize x.toNat = n at h hx
    interval_cases n
    exacts [⟨.nop, hx⟩, ⟨.init, hx⟩, ⟨.encode, hx⟩, ⟨.decode, hx⟩, ⟨.pack, hx⟩, ⟨.unpack, hx⟩]

theorem decode_encodeWith (hi : BitVec 24) (i : Instr) : decode (encodeWith hi i) = .ok i :=
  decode_eq_ok.2 (Laws.EncodedWord.opField_encodeWith hi i)

theorem eq_encodeWith_of_decode {w : Word} {i : Instr} (h : decode w = .ok i) :
    w = encodeWith (w.extractLsb' 8 24) i := by
  rw [encodeWith, ← decode_eq_ok.1 h, append_opField]

theorem exists_decode_iff {w : Word} : (∃ i, decode w = .ok i) ↔ commandWordWellFormed w = true := by
  simp only [decode_eq_ok, exists_opcode_iff, toNat_opField, commandWordWellFormed, decide_eq_true_eq]

/-- A reserved OP is no command's, so every row of the decoder's case analysis fails (R102). -/
theorem decode_reserved {w : Word} (h : 6 ≤ (opField w).toNat) : decode w = .error (.reservedOpcode (opField w)) := by
  have hne (k : BitVec 8) (hk : k.toNat < 6) : opField w ≠ k := by
    rintro rfl
    omega
  rw [decode_eq]
  iterate 6 rw [if_neg (hne _ (by decide))]

/-- Settles O2: OP alone decides, and a word is its ignored bits above its OP. -/
theorem decodeAndEncodeAgree : Obligations.DecodeAndEncodeAgree :=
  ⟨fun i hi _ => decode_encodeWith hi i, fun _ _ => eq_encodeWith_of_decode, fun _ => exists_decode_iff,
    fun _ => decode_reserved⟩

/-- Settles O1: each word is its upper 24 bits above an opcode of the map, or has a reserved OP. -/
theorem commandWordsDecodeAsTabled : Obligations.CommandWordsDecodeAsTabled :=
  ⟨decode_encodeWith 0x000000#24 .nop, decode_encodeWith 0x000000#24 .init, decode_encodeWith 0x000000#24 .encode,
    decode_encodeWith 0x000000#24 .decode, decode_encodeWith 0x000000#24 .pack, decode_encodeWith 0x000000#24 .unpack,
    decode_encodeWith 0x000001#24 .nop, decode_encodeWith 0xFFFFFF#24 .unpack,
    decode_reserved (w := 0x00000006#32) (by decide), decode_reserved (w := 0x000000FF#32) (by decide)⟩

/-! ### The step that runs a command (R36, R100) -/

theorem startCommand_of_decode {w : Word} {i : Instr} (h : decode w = .ok i) (s : State) :
    startCommand w s = exec i (beginCommand s) := by
  simp only [startCommand, h]

/-- Settles O3: the write of CMD starts the command its word decodes to. -/
theorem stepRunsDecodedCommand : Obligations.StepRunsDecodedCommand := by
  intro s w rest i hp hb hd _
  rw [step_command hp hb, startCommand_of_decode hd]
  rfl

/-! ### The STATUS word (R109) -/

/-- The STATUS word bit by bit: each flag at its index, ERR from bit 4 and STAGE from bit 8. -/
theorem getLsbD_statusWord (t : Status) {j : Nat} (hj : j < 32) :
    t.word.getLsbD j =
      (decide (j = 0) && t.ready || decide (j = 1) && t.busy || decide (j = 2) && t.crcOk ||
        decide (4 ≤ j) && t.err.code.getLsbD (j - 4) || decide (8 ≤ j) && t.stage.code.getLsbD (j - 8) ||
        decide (j = 12) && t.encReady || decide (j = 13) && t.decReady) := by
  simp only [Status.word, BitVec.getLsbD_or, getLsbD_flagAt, BitVec.getLsbD_shiftLeft, BitVec.getLsbD_setWidth, hj,
    show ∀ k, j - k < 32 by omega, decide_true, Bool.true_and, ← decide_not, Nat.not_lt]

theorem extractLsb'_statusWord_err (t : Status) : t.word.extractLsb' 4 4 = t.err.code := by
  apply BitVec.eq_of_getLsbD_eq
  intro b hb
  rw [getLsbD_field _ _ hb, getLsbD_statusWord t (by omega)]
  simp [show ¬8 ≤ 4 + b by omega, show 4 + b ≠ 1 by omega, show 4 + b ≠ 2 by omega, show 4 + b ≠ 12 by omega,
    show 4 + b ≠ 13 by omega]

theorem extractLsb'_statusWord_stage (t : Status) : t.word.extractLsb' 8 4 = t.stage.code := by
  apply BitVec.eq_of_getLsbD_eq
  intro b hb
  have herr : t.err.code.getLsbD (8 + b - 4) = false := BitVec.getLsbD_of_ge _ _ (by omega)
  rw [getLsbD_field _ _ hb, getLsbD_statusWord t (by omega), herr]
  simp [show 8 + b ≠ 1 by omega, show 8 + b ≠ 2 by omega, show 8 + b ≠ 12 by omega, show 8 + b ≠ 13 by omega]

theorem extractLsb'_statusWord_reserved (t : Status) : t.word.extractLsb' 14 18 = 0#18 := by
  apply BitVec.eq_of_getLsbD_eq
  intro b hb
  have herr : t.err.code.getLsbD (14 + b - 4) = false := BitVec.getLsbD_of_ge _ _ (by omega)
  have hstage : t.stage.code.getLsbD (14 + b - 8) = false := BitVec.getLsbD_of_ge _ _ (by omega)
  rw [getLsbD_field _ _ hb, getLsbD_statusWord t (by omega), herr, hstage]
  simp [show 14 + b ≠ 1 by omega, show 14 + b ≠ 2 by omega, show 14 + b ≠ 12 by omega, show 14 + b ≠ 13 by omega]

/-- Settles O21: the flags and fields by the word's bits; the numbers and the example evaluate. -/
theorem statusWordLayout : Obligations.StatusWordLayout := by
  refine ⟨fun t => ⟨?_, ?_, ?_, ?_, extractLsb'_statusWord_err t, extractLsb'_statusWord_stage t, ?_, ?_,
    extractLsb'_statusWord_reserved t⟩, fun t hr hb hc he hs hE hD => ?_, ⟨rfl, rfl, rfl, rfl, rfl, rfl, rfl, rfl, rfl, rfl⟩,
    ⟨rfl, rfl, rfl, rfl, rfl, rfl, rfl, rfl, rfl, rfl⟩⟩
  iterate 6
    · rw [getLsbD_statusWord t (by decide)]
      simp
  · rw [Status.word, hr, hb, hc, he, hs, hE, hD]
    decide

/-! ### What a command leaves alone (R110) -/

/-- The state `s` with the registers that are command `i`'s to write taken from `w`. -/
def withOutputs (i : Instr) (w s : State) : State :=
  match i with
  | .nop => { s with status := w.status }
  | .init => { s with status := w.status, code := w.code }
  | .encode => { s with status := w.status, grid := w.grid }
  | .decode =>
    { s with status := w.status, resCtrl := w.resCtrl, resPayload := w.resPayload, freeIndex := w.freeIndex }
  | .pack => { s with status := w.status, packed := w.packed }
  | .unpack => { s with status := w.status, resCtrl := w.resCtrl, resPayload := w.resPayload }

section
variable {i : Instr} (w s : State)

@[simp] theorem withOutputs_cfg : (withOutputs i w s).cfg = s.cfg := by cases i <;> rfl
@[simp] theorem withOutputs_msgCtrl : (withOutputs i w s).msgCtrl = s.msgCtrl := by cases i <;> rfl
@[simp] theorem withOutputs_msgPayload : (withOutputs i w s).msgPayload = s.msgPayload := by cases i <;> rfl
@[simp] theorem withOutputs_decSsb : (withOutputs i w s).decSsb = s.decSsb := by cases i <;> rfl
@[simp] theorem withOutputs_pending : (withOutputs i w s).pending = s.pending := by cases i <;> rfl
@[simp] theorem withOutputs_readData : (withOutputs i w s).readData = s.readData := by cases i <;> rfl
@[simp] theorem withOutputs_resetCount : (withOutputs i w s).resetCount = s.resetCount := by cases i <;> rfl

theorem withOutputs_freeIndex (h : i ≠ .decode) : (withOutputs i w s).freeIndex = s.freeIndex := by
  cases i <;> trivial

theorem withOutputs_code (h : i ≠ .init) : (withOutputs i w s).code = s.code := by cases i <;> trivial

theorem withOutputs_result (hd : i ≠ .decode) (hu : i ≠ .unpack) :
    (withOutputs i w s).resCtrl = s.resCtrl ∧ (withOutputs i w s).resPayload = s.resPayload := by
  cases i <;> trivial

theorem withOutputs_packed (h : i ≠ .pack) : (withOutputs i w s).packed = s.packed := by cases i <;> trivial

theorem withOutputs_grid (h : i ≠ .encode) : (withOutputs i w s).grid = s.grid := by cases i <;> trivial

end

/-- A command that answers writes the registers that are its own to write, and nothing else. -/
theorem exec_eq_withOutputs {i : Instr} {s t : State} (h : exec i s = .next t) : t = withOutputs i t s := by
  cases i with
  | nop => cases h; rfl
  | init => rcases initCommand_cases params s with ⟨h', -⟩ | h' | ⟨c, h', -, -⟩ <;> cases Eq.trans h.symm h' <;> rfl
  | encode =>
    rcases encodeCommand_cases params s with ⟨e, -, h'⟩ | ⟨-, h'⟩ | ⟨c, code, -, -, h'⟩ <;> cases Eq.trans h.symm h'
    · rfl
    · rw [reMap_eq]
      rfl
  | decode =>
    rcases decodeCommand_cases params s with ⟨e, -, h'⟩ | ⟨-, h'⟩ | ⟨c, code, -, -, ⟨e, hd, h'⟩ | ⟨m, -, h'⟩⟩ <;>
      cases Eq.trans h.symm h'
    · rfl
    · rcases decodeSamples_error hd with rfl | rfl | rfl <;> rfl
    · rfl
  | pack => rcases packCommand_cases params s with ⟨-, h'⟩ | ⟨c, -, h'⟩ <;> cases Eq.trans h.symm h' <;> rfl
  | unpack => rcases unpackCommand_cases params s with ⟨-, h'⟩ | ⟨c, -, h'⟩ <;> cases Eq.trans h.symm h' <;> rfl

/-- A command's end writes BUSY = 0 (R36). -/
theorem exec_busy {i : Instr} {s t : State} (h : exec i s = .next t) : t.status.busy = false := by
  cases i with
  | init => rcases initCommand_status h with ⟨e, -, ht⟩ | ⟨-, ht⟩ <;> rw [ht, finish_busy]
  | decode => rcases decodeCommand_status h with ⟨e, st, -, ht⟩ | ⟨c, code, m, -, -, -, ht⟩ <;> rw [ht, finish_busy]
  | nop | encode | pack | unpack =>
    obtain ⟨e, st, ht⟩ := exec_status (by decide) (by decide) h
    rw [ht, finish_busy]

/-- Only INIT writes ENC_READY and DEC_READY (R40). -/
theorem exec_facetReady {i : Instr} {s t : State} (f : Facet) (hi : i ≠ .init) (h : exec i s = .next t) :
    facetReady f t.status = facetReady f s.status := by
  by_cases hd : i = .decode
  · subst hd
    rcases decodeCommand_status h with ⟨e, st, -, ht⟩ | ⟨c, code, m, -, -, -, ht⟩ <;> rw [ht] <;> cases f <;> rfl
  · obtain ⟨e, st, ht⟩ := exec_status hi hd h
    rw [ht]
    cases f <;> rfl

/-- Settles O18: the registers by what is each command's to write, the flags of STATUS by how commands end. -/
theorem commandsWriteOnlyTheirRegisters : Obligations.CommandsWriteOnlyTheirRegisters := by
  intro i s t h
  have hbusy := exec_busy h
  have hcrc : i ≠ .decode → t.status.crcOk = s.status.crcOk := fun hd => exec_crcOk hd h
  have hready : i ≠ .init → t.status.ready = s.status.ready := fun hi => exec_ready hi h
  have henc : i ≠ .init → t.status.encReady = s.status.encReady := fun hi => exec_facetReady .enc hi h
  have hdec : i ≠ .init → t.status.decReady = s.status.decReady := fun hi => exec_facetReady .dec hi h
  obtain ⟨w, rfl⟩ : ∃ w, t = withOutputs i w s := ⟨t, exec_eq_withOutputs h⟩
  exact ⟨withOutputs_cfg w s, withOutputs_msgCtrl w s, withOutputs_msgPayload w s, withOutputs_decSsb w s,
    withOutputs_pending w s, withOutputs_readData w s, withOutputs_resetCount w s, hbusy,
    fun hd => ⟨hcrc hd, withOutputs_freeIndex w s hd⟩,
    fun hi => ⟨hready hi, henc hi, hdec hi, withOutputs_code w s hi⟩,
    withOutputs_result w s, withOutputs_packed w s,
    fun he => gridByte_congr (withOutputs_grid w s he) (withOutputs_resetCount w s)⟩

end Sys2Proof.Machine
end

section
/-! PROOFS. The packer and its inverse, field by field: where a packed vector holds each field of a message, what unpacking gives
for each field, the result words, and the commands PACK and UNPACK (spec/40_packer_interleaver.md). -/

namespace Sys2Proof.Machine

/-! ### The fields of a message at their logical indices (R132) -/

/-- Every logical index is a frame-number bit's, a payload bit's, or one of the four in between. -/
theorem logicalIndex_cases (j : Fin 32) :
    (∃ b < 4, j = Fin.ofNat 32 (3 - b)) ∨ (∃ i < 24, j = payloadIndex i) ∨ j = 10 ∨ j = 11 ∨ j = 12 ∨ j = 13 := by
  revert j
  decide

/-- No payload bit has one of the two reserved logical indices. -/
theorem payloadIndex_ne_reserved {i : Nat} (hi : i < 24) : payloadIndex i ≠ 12 ∧ payloadIndex i ≠ 13 := by
  revert i
  decide

theorem payloadIndex_low {i : Nat} (h1 : 1 ≤ i) (h6 : i ≤ 6) : payloadIndex i = Fin.ofNat 32 (i + 3) := by
  rw [payloadIndex, if_neg (by omega), if_pos h6]

theorem payloadIndex_high {i : Nat} (h7 : 7 ≤ i) : payloadIndex i = Fin.ofNat 32 (i + 8) := by
  rw [payloadIndex, if_neg (by omega), if_neg (by omega)]

/-- The frame number stands at logical indices 0 to 3, its top bit first. -/
theorem logicalBit_sfn4 (l : Lmax) (m : Message) {b : Nat} (hb : b < 4) :
    logicalBit l m (Fin.ofNat 32 (3 - b)) = m.sfn4.getLsbD b := by
  have hv : (Fin.ofNat 32 (3 - b)).val = 3 - b := Nat.mod_eq_of_lt (by omega)
  rw [hv, logicalBit, if_pos (by omega), Nat.sub_sub_self (by omega)]

/-- With Lmax = 64 the top half of the SSB index stands at logical indices 11 to 13, its top bit first. -/
theorem logicalBit_ssb (m : Message) {b : Nat} (hlo : 3 ≤ b) (hhi : b < 6) :
    logicalBit .l64 m (Fin.ofNat 32 (16 - b)) = m.ssb.getLsbD b := by
  interval_cases b <;> rfl

/-! ### A packed vector by physical position (R133) -/

section
variable {G : Fin 32 → Fin 32} (hG : Function.Injective G) (l : Lmax) (m : Message)
include hG

/-- The physical position of logical index `j` holds the message's bit `j`. -/
theorem getLsbD_pack (j : Fin 32) : (pack G l m).getLsbD (G j) = logicalBit l m j := atLogical_pack hG l m j

theorem getLsbD_pack_sfn4 {b : Nat} (hb : b < 4) :
    (pack G l m).getLsbD (G (Fin.ofNat 32 (3 - b))) = m.sfn4.getLsbD b := by
  rw [getLsbD_pack hG, logicalBit_sfn4 l m hb]

theorem getLsbD_pack_payload {i : Nat} (hi : i < 24) :
    (pack G l m).getLsbD (G (payloadIndex i)) = m.payload.getLsbD i := by
  rw [getLsbD_pack hG, logicalBit_payloadIndex l m i hi]

end

/-! ### The fields of an unpacked vector (R134, R135) -/

section
variable (G : Fin 32 → Fin 32) (l : Lmax) (A : BitVec 32) (issb : BitVec 6)

theorem unpack_kssb : (unpack G l A issb).kssb = if l = .l64 then false else atLogical G A 11 := rfl

theorem unpack_ssb_of_ne {l : Lmax} (hl : l ≠ .l64) : (unpack G l A issb).ssb = issb := if_neg hl

/-- SSB-index bits 2 to 0 come from the supplied index. -/
theorem unpack_ssb_low {b : Nat} (hb : b < 3) : (unpack G l A issb).ssb.getLsbD b = issb.getLsbD b := by
  by_cases hl : l = .l64
  · subst hl
    simp [unpack, show b ≠ 5 by omega, show b ≠ 4 by omega, show b ≠ 3 by omega, show b < 6 by omega]
  · rw [unpack_ssb_of_ne G A issb hl]

/-- SSB-index bits 5 to 3 come from the vector when Lmax = 64, else from the supplied index. -/
theorem unpack_ssb_high {b : Nat} (hlo : 3 ≤ b) (hhi : b < 6) :
    (unpack G l A issb).ssb.getLsbD b =
      if l = .l64 then atLogical G A (Fin.ofNat 32 (16 - b)) else issb.getLsbD b := by
  by_cases hl : l = .l64
  · subst hl
    interval_cases b <;> simp [unpack]
  · rw [unpack_ssb_of_ne G A issb hl, if_neg hl]

theorem unpack_sfn4_getLsbD {b : Nat} (hb : b < 4) :
    (unpack G l A issb).sfn4.getLsbD b = atLogical G A (Fin.ofNat 32 (3 - b)) := by
  rw [unpack_sfn4_bit, decide_eq_true hb, Bool.true_and]

theorem unpack_payload_getLsbD {i : Nat} (hi : i < 24) :
    (unpack G l A issb).payload.getLsbD i = atLogical G A (payloadIndex i) := by
  rw [unpack_payload_bit, decide_eq_true hi, Bool.true_and]

end

/-- Two messages with equal fields are equal; the vectors are compared bit by bit. -/
theorem Message.eq_of_bits {m n : Message} (hsfn : ∀ b < 4, m.sfn4.getLsbD b = n.sfn4.getLsbD b) (hhrf : m.hrf = n.hrf)
    (hkssb : m.kssb = n.kssb) (hssb : m.ssb = n.ssb) (hpay : ∀ i < 24, m.payload.getLsbD i = n.payload.getLsbD i) :
    m = n := by
  have hsfn4 := BitVec.eq_of_getLsbD_eq hsfn
  have hpayload := BitVec.eq_of_getLsbD_eq hpay
  cases m
  cases n
  simp_all

/-! ### The fields a packed vector does not carry -/

theorem toNat_mod_eight_eq_of_low_bits {x y : BitVec 6} (h : ∀ b < 3, x.getLsbD b = y.getLsbD b) :
    x.toNat % 8 = y.toNat % 8 := by
  refine Nat.eq_of_testBit_eq fun b => ?_
  rw [show 8 = 2 ^ 3 from rfl, Nat.testBit_mod_two_pow, Nat.testBit_mod_two_pow]
  by_cases hb : b < 3
  · rw [BitVec.testBit_toNat, BitVec.testBit_toNat, h b hb]
  · simp [hb]

/-- Unpacking reads no bit at a reserved logical index when Lmax is not 64. -/
theorem unpack_congr {G : Fin 32 → Fin 32} {l : Lmax} {A B : BitVec 32} (issb : BitVec 6) (hl : l ≠ .l64)
    (h : ∀ j, j ≠ 12 → j ≠ 13 → atLogical G A j = atLogical G B j) : unpack G l A issb = unpack G l B issb := by
  refine Message.eq_of_bits (fun b hb => ?_) (h 10 (by decide) (by decide)) ?_ ?_ (fun i hi => ?_)
  · have hne : Fin.ofNat 32 (3 - b) ≠ 12 ∧ Fin.ofNat 32 (3 - b) ≠ 13 := by interval_cases b <;> decide
    rw [unpack_sfn4_getLsbD _ _ _ _ hb, unpack_sfn4_getLsbD _ _ _ _ hb, h _ hne.1 hne.2]
  · rw [unpack_kssb, unpack_kssb, h 11 (by decide) (by decide)]
  · rw [unpack_ssb_of_ne _ _ _ hl, unpack_ssb_of_ne _ _ _ hl]
  · obtain ⟨h12, h13⟩ := payloadIndex_ne_reserved hi
    rw [unpack_payload_getLsbD _ _ _ _ hi, unpack_payload_getLsbD _ _ _ _ hi, h _ h12 h13]

/-- Settles O38: the SSB index by its low bits, the reserved positions by the logical indices unpacking reads. -/
theorem uncarriedFieldsFilled : Obligations.UncarriedFieldsFilled := by
  intro G A issb hG
  refine ⟨unpack_kssb G .l64 A issb, fun l => ?_, fun l hl => unpack_ssb_of_ne G A issb hl, fun l B hl hAB => ?_⟩
  · exact toNat_mod_eight_eq_of_low_bits fun b hb => unpack_ssb_low G l A issb hb
  · exact unpack_congr issb hl fun j h12 h13 => hAB (G j) (hG.ne h12) (hG.ne h13)

/-! ### Packing and unpacking (R136) -/

/-- Splicing two SSB indices: bits 5 to 3 of one, bits 2 to 0 of the other. -/
theorem getLsbD_spliced_ssb (x y : BitVec 6) {b : Nat} (hb : b < 6) :
    (BitVec.ofNat 6 (x.toNat / 8 * 8 + y.toNat % 8)).getLsbD b = if b < 3 then y.getLsbD b else x.getLsbD b := by
  have hy : y.toNat % 8 < 2 ^ 3 := Nat.mod_lt _ (by decide)
  rw [BitVec.getLsbD_ofNat, Nat.mul_comm, show 8 * (x.toNat / 8) = 2 ^ 3 * (x.toNat / 2 ^ 3) from rfl,
    Nat.testBit_two_pow_mul_add _ hy, Nat.testBit_div_two_pow, show 8 = 2 ^ 3 from rfl, Nat.testBit_mod_two_pow]
  by_cases h3 : b < 3
  · simp [hb, h3, BitVec.testBit_toNat]
  · simp [hb, h3, BitVec.testBit_toNat, show b - 3 + 3 = b by omega]

/-- Unpacking a packed message returns the fields the vector always carries; it remains to say what the other two are. -/
theorem unpack_pack_eq {G : Fin 32 → Fin 32} (hG : Function.Injective G) {l : Lmax} {m : Message} {issb ssb : BitVec 6}
    {kssb : Bool} (hkssb : (unpack G l (pack G l m) issb).kssb = kssb) (hssb : (unpack G l (pack G l m) issb).ssb = ssb) :
    unpack G l (pack G l m) issb = { m with kssb := kssb, ssb := ssb } := by
  refine Message.eq_of_bits (fun b hb => ?_) (atLogical_pack hG l m 10) hkssb hssb (fun i hi => ?_)
  · rw [unpack_sfn4_getLsbD _ _ _ _ hb, atLogical_pack hG, logicalBit_sfn4 l m hb]
  · rw [unpack_payload_getLsbD _ _ _ _ hi, atLogical_pack hG, logicalBit_payloadIndex l m i hi]

/-- With Lmax = 64 the unpacked SSB index is the top half of the message's and the low half of the supplied one. -/
theorem unpack_pack_ssb {G : Fin 32 → Fin 32} (hG : Function.Injective G) (m : Message) (issb : BitVec 6) :
    (unpack G .l64 (pack G .l64 m) issb).ssb = BitVec.ofNat 6 (m.ssb.toNat / 8 * 8 + issb.toNat % 8) := by
  apply BitVec.eq_of_getLsbD_eq
  intro b hb
  rw [getLsbD_spliced_ssb _ _ hb]
  by_cases h3 : b < 3
  · rw [if_pos h3, unpack_ssb_low _ _ _ _ h3]
  · rw [if_neg h3, unpack_ssb_high _ _ _ _ (by omega) hb, if_pos rfl, atLogical_pack hG, logicalBit_ssb m (by omega) hb]

/-- Logical index `j` of an unpacked vector is the vector's, at the reserved indices too when Lmax = 64 or they hold 0. -/
theorem logicalBit_unpack (G : Fin 32 → Fin 32) {l : Lmax} {A : BitVec 32} (issb : BitVec 6)
    (h12 : l ≠ .l64 → atLogical G A 12 = false) (h13 : l ≠ .l64 → atLogical G A 13 = false) (j : Fin 32) :
    logicalBit l (unpack G l A issb) j = atLogical G A j := by
  rcases logicalIndex_cases j with ⟨b, hb, rfl⟩ | ⟨i, hi, rfl⟩ | rfl | rfl | rfl | rfl
  · rw [logicalBit_sfn4 l _ hb, unpack_sfn4_getLsbD _ _ _ _ hb]
  · rw [logicalBit_payloadIndex l _ i hi, unpack_payload_getLsbD _ _ _ _ hi]
  · rfl
  all_goals by_cases hl : l = .l64
  · subst hl; exact unpack_ssb_high G .l64 A issb (b := 5) (by decide) (by decide)
  · exact (if_neg hl).trans (if_neg hl)
  · subst hl; exact unpack_ssb_high G .l64 A issb (b := 4) (by decide) (by decide)
  · exact (if_neg hl).trans (h12 hl).symm
  · subst hl; exact unpack_ssb_high G .l64 A issb (b := 3) (by decide) (by decide)
  · exact (if_neg hl).trans (h13 hl).symm

theorem pack_unpack {G : Fin 32 → Fin 32} (hG : Function.Injective G) {l : Lmax} {A : BitVec 32} (issb : BitVec 6)
    (h12 : l ≠ .l64 → atLogical G A 12 = false) (h13 : l ≠ .l64 → atLogical G A 13 = false) :
    pack G l (unpack G l A issb) = A :=
  eq_of_atLogical hG fun j => (atLogical_pack hG l _ j).trans (logicalBit_unpack G issb h12 h13 j)

/-- Settles O37: field by field one way, logical index by logical index the other. -/
theorem packAndUnpackAreInverse : Obligations.PackAndUnpackAreInverse := by
  refine fun G hG => ⟨fun m issb => ?_, fun l m issb hl => ?_, fun A issb => ?_, fun l A issb _ h12 h13 => ?_⟩
  · exact unpack_pack_eq hG rfl (unpack_pack_ssb hG m issb)
  · have hkssb : (unpack G l (pack G l m) issb).kssb = m.kssb := by
      rw [unpack_kssb, if_neg hl, atLogical_pack hG]
      exact if_neg hl
    exact unpack_pack_eq hG hkssb (unpack_ssb_of_ne G _ issb hl)
  · exact pack_unpack hG issb (fun h => absurd rfl h) (fun h => absurd rfl h)
  · exact pack_unpack hG issb (fun _ => h12) (fun _ => h13)

/-- Settles O39: the position of logical index `j` under the default table holds the message's bit `j`. -/
theorem packedLayoutUnderDefaultTable : Obligations.PackedLayoutUnderDefaultTable := by
  intro l m
  have bit (j : Fin 32) := getLsbD_pack defaultG_injective l m j
  exact ⟨bit 10, bit 14, bit 13, bit 12, bit 15, bit 11, bit 7, bit 9, bit 4, bit 16, bit 6, bit 17, bit 18, bit 19, bit 20,
    bit 21, bit 0, bit 3, bit 2, bit 22, bit 23, bit 24, bit 25, bit 1, bit 8, bit 26, bit 27, bit 28, bit 29, bit 30, bit 5,
    bit 31⟩

/-! ### The result words (R108) -/

/-- The word RES_CTRL gets, bit by bit: each field from its lowest bit on. -/
theorem getLsbD_ctrlWord (m : Message) {j : Nat} (hj : j < 32) :
    m.ctrlWord.getLsbD j =
      (m.sfn4.getLsbD j || decide (j = 4) && m.hrf || decide (j = 5) && m.kssb ||
        decide (8 ≤ j) && m.ssb.getLsbD (j - 8)) := by
  simp only [Message.ctrlWord, BitVec.getLsbD_or, getLsbD_flagAt, BitVec.getLsbD_shiftLeft, BitVec.getLsbD_setWidth, hj,
    show j - 8 < 32 by omega, decide_true, Bool.true_and, ← decide_not, Nat.not_lt]

theorem ctrlWord_sfn4 (m : Message) {b : Nat} (hb : b < 4) : m.ctrlWord.getLsbD b = m.sfn4.getLsbD b := by
  rw [getLsbD_ctrlWord m (by omega)]
  simp [show b ≠ 4 by omega, show b ≠ 5 by omega, show ¬8 ≤ b by omega]

theorem ctrlWord_hrf (m : Message) : m.ctrlWord.getLsbD 4 = m.hrf := by
  rw [getLsbD_ctrlWord m (by decide)]
  simp

theorem ctrlWord_kssb (m : Message) : m.ctrlWord.getLsbD 5 = m.kssb := by
  rw [getLsbD_ctrlWord m (by decide)]
  simp

theorem ctrlWord_ssb (m : Message) {b : Nat} (hb : b < 6) : m.ctrlWord.getLsbD (8 + b) = m.ssb.getLsbD b := by
  have hsfn : m.sfn4.getLsbD (8 + b) = false := BitVec.getLsbD_of_ge _ _ (by omega)
  rw [getLsbD_ctrlWord m (by omega), hsfn]
  simp [show 8 + b ≠ 4 by omega, show 8 + b ≠ 5 by omega]

theorem getLsbD_payloadWord (m : Message) {i : Nat} (hi : i < 24) : m.payloadWord.getLsbD i = m.payload.getLsbD i := by
  simp [Message.payloadWord, show i < 32 by omega]

section
variable (G : Fin 32 → Fin 32) (l : Lmax) (A : BitVec 32) (issb : BitVec 6)

theorem ctrlWord_unpack_sfn4 {b : Nat} (hb : b < 4) :
    (unpack G l A issb).ctrlWord.getLsbD b = A.getLsbD (G (Fin.ofNat 32 (3 - b))) :=
  (ctrlWord_sfn4 _ hb).trans (unpack_sfn4_getLsbD G l A issb hb)

theorem ctrlWord_unpack_ssb_low {b : Nat} (hb : b < 3) :
    (unpack G l A issb).ctrlWord.getLsbD (8 + b) = issb.getLsbD b :=
  (ctrlWord_ssb _ (by omega)).trans (unpack_ssb_low G l A issb hb)

theorem ctrlWord_unpack_ssb_high {b : Nat} (hlo : 3 ≤ b) (hhi : b < 6) :
    (unpack G l A issb).ctrlWord.getLsbD (8 + b) =
      if l = .l64 then A.getLsbD (G (Fin.ofNat 32 (16 - b))) else issb.getLsbD b :=
  (ctrlWord_ssb _ hhi).trans (unpack_ssb_high G l A issb hlo hhi)

theorem payloadWord_unpack {i : Nat} (hi : i < 24) :
    (unpack G l A issb).payloadWord.getLsbD i = A.getLsbD (G (payloadIndex i)) :=
  (getLsbD_payloadWord _ hi).trans (unpack_payload_getLsbD G l A issb hi)

end

/-! ### The commands (R137, R138) -/

/-- A legal CFG is the configuration of its fields; Lmax is 64 where the code is 2 (R42, R150). -/
theorem codecConfig_of_legal {cfg : Word} (hn : nidField cfg ≤ 1007) (hl : lmaxField cfg ≠ 3#2) :
    ∃ c, codecConfig cfg = some c ∧ (c.lmax = .l64 ↔ lmaxField cfg = 2#2) := by
  have hlmax {k : BitVec 2} {l : Lmax} : Lmax.ofCode k = some l → (l = .l64 ↔ k = 2#2) := by
    revert k
    cases l <;> decide
  cases hc : codecConfig cfg with
  | none => exact absurd (codecConfig_none.1 hc) (not_or.2 ⟨Nat.not_lt.2 hn, hl⟩)
  | some c =>
    obtain ⟨-, hcode, -⟩ := codecConfig_some.1 hc
    exact ⟨c, rfl, hlmax hcode⟩

/-- PACK with a legal CFG (R137). -/
theorem exec_pack_of_some {s : State} {c : CodecConfig} (h : codecConfig s.cfg = some c) :
    exec .pack s = .next { s with
      packed := pack params.G c.lmax (messageOperand s.msgCtrl s.msgPayload), status := s.status.finish .ok .none } := by
  rcases packCommand_cases params s with ⟨h', -⟩ | ⟨c', h', hx⟩ <;> cases h.symm.trans h'
  exact hx

/-- UNPACK with a legal CFG (R138). -/
theorem exec_unpack_of_some {s : State} {c : CodecConfig} (h : codecConfig s.cfg = some c) :
    let m := unpack params.G c.lmax s.packed (ssbOperand s.decSsb)
    exec .unpack s = .next { s with
      resCtrl := m.ctrlWord, resPayload := m.payloadWord, status := s.status.finish .ok .none } := by
  rcases unpackCommand_cases params s with ⟨h', -⟩ | ⟨c', h', hx⟩ <;> cases h.symm.trans h'
  exact hx

/-- PACK and UNPACK with an illegal CFG write ERR and STAGE and nothing else (R286). -/
theorem exec_pack_unpack_of_none {i : Instr} {s : State} (hi : i = .pack ∨ i = .unpack) (h : codecConfig s.cfg = none) :
    exec i s = .next { s with status := s.status.finish .invalidInput .none } := by
  rw [← raise_nothing]
  rcases hi with rfl | rfl
  · rcases packCommand_cases params s with ⟨-, hx⟩ | ⟨c, h', -⟩
    · exact hx
    · cases h.symm.trans h'
  · rcases unpackCommand_cases params s with ⟨-, hx⟩ | ⟨c, h', -⟩
    · exact hx
    · cases h.symm.trans h'

/-- Settles O35: the configuration decides the case; each field of the message by where a packed vector holds it. -/
theorem packWritesPackedVector : Obligations.PackWritesPackedVector := by
  have hG : Function.Injective params.G := defaultG_injective
  refine ⟨hG, fun s hn hl => ?_, fun s h => exec_pack_unpack_of_none (.inl rfl) (codecConfig_none.2 h)⟩
  obtain ⟨c, hc, h64⟩ := codecConfig_of_legal hn hl
  have hcode : c.lmax = .l64 ↔ s.cfg.extractLsb' 16 2 = 2#2 := h64
  simp only [← hcode]
  have hssb {b : Nat} (hb : b < 6) : (messageOperand s.msgCtrl s.msgPayload).ssb.getLsbD b = s.msgCtrl.getLsbD (8 + b) :=
    getLsbD_field s.msgCtrl 8 hb
  have hpay {i : Nat} (hi : i < 24) :
      (messageOperand s.msgCtrl s.msgPayload).payload.getLsbD i = s.msgPayload.getLsbD i := getLsbD_lowField _ hi
  have bit := getLsbD_pack hG c.lmax (messageOperand s.msgCtrl s.msgPayload)
  refine ⟨_, exec_pack_of_some hc, fun b hb => ?_, bit 10, ?_, ?_, ?_, ?_, fun i h1 h6 => ?_, fun i h7 h23 => ?_,
    fun hcfg hctrl hpayload => ?_⟩
  · exact (getLsbD_pack_sfn4 hG _ _ hb).trans (getLsbD_lowField _ hb)
  · rw [← hssb (b := 5) (by decide)]
    exact bit 11
  · rw [← hssb (b := 4) (by decide)]
    exact bit 12
  · rw [← hssb (b := 3) (by decide)]
    exact bit 13
  · exact (bit 14).trans (hpay (by decide))
  · rw [← payloadIndex_low h1 h6, getLsbD_pack_payload hG _ _ (by omega), hpay (by omega)]
  · rw [← payloadIndex_high h7, getLsbD_pack_payload hG _ _ (by omega), hpay (by omega)]
  · rw [hcfg] at hc
    cases hc
    rw [hctrl, hpayload]
    decide

/-- Settles O36: the configuration decides the case; each field of the result words by what unpacking gives for it. -/
theorem unpackWritesRecoveredMessage : Obligations.UnpackWritesRecoveredMessage := by
  refine ⟨fun s hn hl => ?_, fun s h => exec_pack_unpack_of_none (.inr rfl) (codecConfig_none.2 h)⟩
  obtain ⟨c, hc, h64⟩ := codecConfig_of_legal hn hl
  have hcode : c.lmax = .l64 ↔ s.cfg.extractLsb' 16 2 = 2#2 := h64
  simp only [← hcode]
  have hissb {b : Nat} (hb : b < 6) : (ssbOperand s.decSsb).getLsbD b = s.decSsb.getLsbD b := getLsbD_lowField _ hb
  have hhigh {b : Nat} (hlo : 3 ≤ b) (hhi : b < 6) :
      (unpack params.G c.lmax s.packed (ssbOperand s.decSsb)).ctrlWord.getLsbD (8 + b) =
        if c.lmax = .l64 then s.packed.getLsbD (params.G (Fin.ofNat 32 (16 - b))) else s.decSsb.getLsbD b := by
    rw [ctrlWord_unpack_ssb_high _ _ _ _ hlo hhi, hissb hhi]
  have hpay {i : Nat} (hi : i < 24) := payloadWord_unpack params.G c.lmax s.packed (ssbOperand s.decSsb) hi
  refine ⟨_, _, exec_unpack_of_some hc, ctrlWord_reserved _, payloadWord_reserved _,
    fun b hb => ctrlWord_unpack_sfn4 _ _ _ _ hb, ctrlWord_hrf _, ctrlWord_kssb _, fun b hb => ?_,
    hhigh (b := 3) (by decide) (by decide), hhigh (b := 4) (by decide) (by decide),
    hhigh (b := 5) (by decide) (by decide), hpay (by decide), fun i h1 h6 => ?_, fun i h7 h23 => ?_,
    fun hcfg hpacked hdecSsb => ?_⟩
  · exact (ctrlWord_unpack_ssb_low _ _ _ _ hb).trans (hissb (by omega))
  · rw [← payloadIndex_low h1 h6]
    exact hpay (by omega)
  · rw [← payloadIndex_high h7]
    exact hpay (by omega)
  · rw [hcfg] at hc
    cases hc
    rw [hpacked, hdecSsb]
    decide

end Sys2Proof.Machine
end

section
/-! PROOFS. The codec commands end to end: the symbols ENCODE writes, the stages of DECODE and how it ends, what the outcomes depend
on, and the noiseless round trip (spec/41_codec_commands.md). -/

namespace Sys2Proof.Machine

/-! ### NOP and the constants of each Lmax -/

/-- Settles O22: OP alone decodes a NOP; the example's words evaluate. -/
theorem nopClearsError : Obligations.NopClearsError := by
  refine ⟨fun _ => rfl, fun _ h => decode_eq_ok.2 h, fun s hs => ⟨?_, complete s, rfl, ?_⟩⟩
  · rw [hs]
    decide
  · rw [complete_status, hs]
    decide

/-- Settles O43. -/
theorem lmaxConstants : Obligations.LmaxConstants :=
  ⟨⟨rfl, rfl, rfl⟩, fun _ => ⟨rfl, rfl, rfl⟩, rfl, rfl⟩

/-! ### INIT (R153) -/

/-- INIT with an enabled facet whose primitives and code construction succeed. -/
theorem initCommand_of_ok {p : Params} {s : State} {c : PolarCode}
    (hen : (enEncField s.cfg || enDecField s.cfg) = true)
    (hprim : primitivesOk p (enEncField s.cfg) (enDecField s.cfg) = true) (hcode : initCode p = some c) :
    initCommand p s = .next (complete (buildCodec c (enEncField s.cfg) (enDecField s.cfg) (tearDown s))) := by
  have hfacet : ¬(enEncField s.cfg = false ∧ enDecField s.cfg = false) := by
    rintro ⟨henc, hdec⟩
    simp [henc, hdec] at hen
  simp [initCommand, hfacet, hprim, hcode]

/-- The machine's primitives all initialise (log 5). -/
theorem primitivesOk_params (enE enD : Bool) : primitivesOk params enE enD = true := by
  cases enE <;> cases enD <;> rfl

/-- Settles O23: with the defaults neither of INIT's errors is met. -/
theorem initBuildsEnabledFacets : Obligations.InitBuildsEnabledFacets :=
  fun _ hen => ⟨_, rfl, initCommand_of_ok hen (primitivesOk_params _ _) initCode_params⟩

/-! ### The symbols of an ENCODE (R154) -/

/-- The rate-matched vector of a message: ENCODE's stages 1 to 5. -/
def encodeRateMatched (p : Params) (c : CodecConfig) (code : PolarCode) (m : Message) : BitVec 864 :=
  channelEncode p code (attachCrc p (scr1 p.G p.prbs c.nid c.lmax (pack p.G c.lmax m)))

theorem encodeSymbols_eq (p : Params) (c : CodecConfig) (code : PolarCode) (m : Message) :
    encodeSymbols p c code m = qpskMap (scr2 p.prbs c.nid c.lmax m.ssb (encodeRateMatched p c code m)) := rfl

theorem getElem_qpskMap (F : BitVec 864) {n : Nat} (hn : n < 432) :
    (qpskMap F)[n] = qpskPoint (F.getLsbD (2 * n)) (F.getLsbD (2 * n + 1)) := by
  simp [qpskMap]

/-- Symbol n carries bits 2n and 2n + 1 of the rate-matched vector, each XORed with its stage-2 generator bit (R189, R230). -/
theorem getElem_encodeSymbols (p : Params) (c : CodecConfig) (code : PolarCode) (m : Message) {n : Nat} (hn : n < 432) :
    let gen := fun n => p.prbs c.nid (stage2Selector c.lmax m.ssb * 864 + n)
    let erm := encodeRateMatched p c code m
    (encodeSymbols p c code m)[n] =
      qpskPoint (erm.getLsbD (2 * n) ^^ gen (2 * n)) (erm.getLsbD (2 * n + 1) ^^ gen (2 * n + 1)) := by
  simp only [encodeSymbols_eq, getElem_qpskMap _ hn]
  rw [getLsbD_scr2 _ _ _ _ _ _ (by omega), getLsbD_scr2 _ _ _ _ _ _ (by omega)]

/-- The end of a command leaves the grid as it is. -/
theorem memRead_complete (s : State) (i : Nat) : memRead (complete s) i = memRead s i := memRead_congr rfl rfl i

theorem gridByte_complete (s : State) (a : Nat) : gridByte (complete s) a = gridByte s a := gridByte_congr rfl rfl a

/-- Settles O29: past the checks, ENCODE is the grid writer on its symbols. -/
theorem encodeWritesItsSymbols : Obligations.EncodeWritesItsSymbols := by
  intro s c code hr hf hc hcode
  refine ⟨_, encodeCommand_of_ok (precheckCodec_ok.2 ⟨hr, hf, hc⟩) hcode, ?_, fun n hn => ?_, fun a ha => ?_⟩
  · rw [reMap_eq]
    rfl
  · have hread := memRead_reMap (refShift_lt c.nid)
      (encodeSymbols params c code (messageOperand s.msgCtrl s.msgPayload)) s ⟨n, hn⟩
    rw [memRead_complete]
    exact hread.trans (getElem_encodeSymbols params c code _ hn)
  · rw [gridByte_complete]
    exact gridByte_reMap_of_not_mem _ s ha

/-! ### The ends of a DECODE (R155) -/

/-- DECODE past its checks with a message its stages recover. -/
theorem decodeCommand_of_message {p : Params} {s : State} {c : CodecConfig} {code : PolarCode} {m : Message}
    (hp : precheckCodec .dec s = .ok c) (hcode : s.code = some code)
    (hm : decodeSamples p c code (ssbOperand s.decSsb) (reDemap (refShift c.nid) s) = .ok m) :
    decodeCommand p s = .next (acceptMessage m (clearCrcOk s)) := by
  rw [decodeCommand_of_ok hp hcode, hm]

/-- DECODE past its checks with an error of its stages, all of which are stages of the pipeline (R283). -/
theorem decodeCommand_of_stageError {p : Params} {s : State} {c : CodecConfig} {code : PolarCode}
    {e : ErrorCode × StageCode} (hp : precheckCodec .dec s = .ok c) (hcode : s.code = some code)
    (he : decodeSamples p c code (ssbOperand s.decSsb) (reDemap (refShift c.nid) s) = .error e) :
    decodeCommand p s =
      .next { drawResult (clearCrcOk s) with status := (clearCrcOk s).status.finish e.1 e.2 } := by
  have hst : e.2.isPipeline = true := by rcases decodeSamples_error he with rfl | rfl | rfl <;> rfl
  rw [decodeCommand_of_ok hp hcode, he]
  exact congrArg Host.Outcome.next (raise_decodeResult e.1 e.2 _ hst)

/-- Settles O31: the stages' result decides between acceptance and a pipeline stage's error. -/
theorem decodeEndsByItsStages : Obligations.DecodeEndsByItsStages := by
  intro s c code hr hf hc hcode
  have hp : precheckCodec .dec s = .ok c := precheckCodec_ok.2 ⟨hr, hf, hc⟩
  cases hd : decodeSamples params c code (ssbOperand s.decSsb) (reDemap (c.nid % 4) s) with
  | error e => exact decodeCommand_of_stageError hp hcode hd
  | ok m => exact decodeCommand_of_message hp hcode hd

/-- Samples whose vector passes every stage give the message in its stage-1 descrambled first 32 bits. -/
theorem decodeSamples_of_accepted {p : Params} {c : CodecConfig} {code : PolarCode} {issb : BitVec 6}
    {Y : Vector Sample 432} {Ys : Vector Soft 512} {Ch : BitVec 56}
    (hrm : p.rmRx rateMatchCall (descr2Soft p.prbs c.nid c.lmax issb (qpskDemap p.demod Y)) = (Ys, true))
    (hpd : p.polarDecode Ys code = (Ch, true)) (hcrc : p.crcCheck Ch = true) :
    decodeSamples p c code issb Y =
      .ok (unpack p.G c.lmax (scr1 p.G p.prbs c.nid c.lmax (Ch.extractLsb' 0 32)) issb) := by
  simp [decodeSamples, hrm, hpd, hcrc]

/-- Settles O32. -/
theorem decodeAcceptsCheckedVector : Obligations.DecodeAcceptsCheckedVector :=
  fun _ _ _ _ _ _ hr hf hc hcode hrm hpd hcrc =>
    decodeCommand_of_message (precheckCodec_ok.2 ⟨hr, hf, hc⟩) hcode (decodeSamples_of_accepted hrm hpd hcrc)

/-! ### What an outcome depends on (R157) -/

theorem precheckCodec_congr {f : Facet} {s t : State} (hr : s.status.ready = t.status.ready)
    (hf : facetReady f s.status = facetReady f t.status) (hc : codecConfig s.cfg = codecConfig t.cfg) :
    precheckCodec f s = precheckCodec f t := by
  simp only [precheckCodec, hr, hf, hc]

theorem precheckCodec_error_ne_ok {f : Facet} {s : State} {e : ErrorCode} (h : precheckCodec f s = .error e) :
    e ≠ .ok := by
  rcases precheckCodec_error h with rfl | rfl | rfl <;> decide

/-- What the writer leaves in a listed element does not depend on the state before. -/
theorem memRead_reMap_congr {v i : Nat} (hv : v < 4) (S : Vector Sample 432) (s t : State) (hi : i ∈ pbchRE v) :
    memRead (reMap v S s) i = memRead (reMap v S t) i := by
  obtain ⟨n, hn, rfl⟩ := List.getElem_of_mem hi
  have hread (u : State) := memRead_reMap hv S u ⟨n, pbchRE_length hv ▸ hn⟩
  simp only [List.getD_eq_getElem _ _ hn] at hread
  rw [hread s, hread t]

section
variable {p : Params} {s : State}

theorem packCommand_of_none (h : codecConfig s.cfg = none) :
    packCommand p s = .next (raise .nothing .invalidInput .none s) := by
  simp only [packCommand, h]

theorem packCommand_of_some {c : CodecConfig} (h : codecConfig s.cfg = some c) :
    packCommand p s = .next (complete { s with packed := pack p.G c.lmax (messageOperand s.msgCtrl s.msgPayload) }) := by
  simp only [packCommand, h]

theorem unpackCommand_of_none (h : codecConfig s.cfg = none) :
    unpackCommand p s = .next (raise .nothing .invalidInput .none s) := by
  simp only [unpackCommand, h]

theorem unpackCommand_of_some {c : CodecConfig} (h : codecConfig s.cfg = some c) :
    unpackCommand p s = .next (complete (writeResult (unpack p.G c.lmax s.packed (ssbOperand s.decSsb)) s)) := by
  simp only [unpackCommand, h]

end

section
variable {p : Params} {s t s' t' : State} (hcfg : codecConfig s.cfg = codecConfig t.cfg)
include hcfg

theorem encodeCommand_congr (hs : encodeCommand p s = .next s') (ht : encodeCommand p t = .next t')
    (hr : s.status.ready = t.status.ready) (hf : s.status.encReady = t.status.encReady)
    (hm : messageOperand s.msgCtrl s.msgPayload = messageOperand t.msgCtrl t.msgPayload) (hcode : s.code = t.code) :
    s'.status.err = t'.status.err ∧ s'.status.stage = t'.status.stage ∧
      ∀ c, codecConfig s.cfg = some c → s'.status.err = .ok →
        ∀ i ∈ pbchRE (c.nid % 4), memRead s' i = memRead t' i := by
  have hpre := precheckCodec_congr (f := .enc) hr hf hcfg
  rcases encodeCommand_cases p s with ⟨e, hp, h⟩ | ⟨-, h⟩ | ⟨c, code, hp, hsc, h⟩ <;> cases hs.symm.trans h
  · cases ht.symm.trans (encodeCommand_of_error (hpre ▸ hp))
    simp only [raise_nothing_status, finish_err, finish_stage, true_and]
    exact fun _ _ hok => absurd hok (precheckCodec_error_ne_ok hp)
  · cases ht.symm.trans (encodeCommand_of_ok (hpre ▸ hp) (hcode ▸ hsc))
    simp only [complete_status, finish_err, finish_stage, true_and]
    intro c' hc' _ i hi
    cases (precheckCodec_ok.1 hp).2.2.symm.trans hc'
    rw [memRead_complete, memRead_complete, hm]
    exact memRead_reMap_congr (refShift_lt c.nid) _ s t hi

theorem decodeCommand_congr (hs : decodeCommand p s = .next s') (ht : decodeCommand p t = .next t')
    (hr : s.status.ready = t.status.ready) (hf : s.status.decReady = t.status.decReady)
    (hssb : ssbOperand s.decSsb = ssbOperand t.decSsb) (hcode : s.code = t.code)
    (hread : ∀ c, codecConfig s.cfg = some c → ∀ i ∈ pbchRE (c.nid % 4), memRead s i = memRead t i) :
    s'.status.err = t'.status.err ∧ s'.status.stage = t'.status.stage ∧ s'.status.crcOk = t'.status.crcOk ∧
      (s'.status.err = .ok → s'.resCtrl = t'.resCtrl ∧ s'.resPayload = t'.resPayload) := by
  have hpre := precheckCodec_congr (f := .dec) hr hf hcfg
  have samples {c : CodecConfig} (hp : precheckCodec .dec s = .ok c) :
      reDemap (refShift c.nid) s = reDemap (refShift c.nid) t :=
    reDemap_congr (refShift_lt c.nid) (hread c (precheckCodec_ok.1 hp).2.2)
  rcases decodeCommand_cases p s with ⟨e, hp, h⟩ | ⟨-, h⟩ | ⟨c, code, hp, hsc, ⟨e, hd, h⟩ | ⟨m, hd, h⟩⟩
  · cases hs.symm.trans (decodeCommand_of_error hp)
    cases ht.symm.trans (decodeCommand_of_error (hpre ▸ hp))
    exact ⟨rfl, rfl, rfl, fun hok => absurd hok (precheckCodec_error_ne_ok hp)⟩
  · cases hs.symm.trans h
  · have hd' := hd
    rw [hssb, samples hp] at hd'
    cases hs.symm.trans (decodeCommand_of_stageError hp hsc hd)
    cases ht.symm.trans (decodeCommand_of_stageError (hpre ▸ hp) (hcode ▸ hsc) hd')
    have hne : e.1 ≠ .ok := by rcases decodeSamples_error hd with rfl | rfl | rfl <;> decide
    exact ⟨rfl, rfl, rfl, fun hok => absurd hok hne⟩
  · rw [hssb, samples hp] at hd
    cases hs.symm.trans h
    cases ht.symm.trans (decodeCommand_of_message (hpre ▸ hp) (hcode ▸ hsc) hd)
    exact ⟨rfl, rfl, rfl, fun _ => ⟨rfl, rfl⟩⟩

theorem packCommand_congr (hs : packCommand p s = .next s') (ht : packCommand p t = .next t')
    (hm : messageOperand s.msgCtrl s.msgPayload = messageOperand t.msgCtrl t.msgPayload) :
    s'.status.err = t'.status.err ∧ s'.status.stage = t'.status.stage ∧
      (s'.status.err = .ok → s'.packed = t'.packed) := by
  cases hc : codecConfig s.cfg with
  | none =>
    cases hs.symm.trans (packCommand_of_none hc)
    cases ht.symm.trans (packCommand_of_none (hcfg ▸ hc))
    exact ⟨rfl, rfl, nofun⟩
  | some c =>
    cases hs.symm.trans (packCommand_of_some hc)
    cases ht.symm.trans (packCommand_of_some (hcfg ▸ hc))
    exact ⟨rfl, rfl, fun _ => congrArg (pack p.G c.lmax) hm⟩

theorem unpackCommand_congr (hs : unpackCommand p s = .next s') (ht : unpackCommand p t = .next t')
    (hpacked : s.packed = t.packed) (hssb : ssbOperand s.decSsb = ssbOperand t.decSsb) :
    s'.status.err = t'.status.err ∧ s'.status.stage = t'.status.stage ∧
      (s'.status.err = .ok → s'.resCtrl = t'.resCtrl ∧ s'.resPayload = t'.resPayload) := by
  cases hc : codecConfig s.cfg with
  | none =>
    cases hs.symm.trans (unpackCommand_of_none hc)
    cases ht.symm.trans (unpackCommand_of_none (hcfg ▸ hc))
    exact ⟨rfl, rfl, nofun⟩
  | some c =>
    cases hs.symm.trans (unpackCommand_of_some hc)
    cases ht.symm.trans (unpackCommand_of_some (hcfg ▸ hc))
    have hmessage :
        unpack p.G c.lmax s.packed (ssbOperand s.decSsb) = unpack p.G c.lmax t.packed (ssbOperand t.decSsb) := by
      rw [hpacked, hssb]
    exact ⟨rfl, rfl, fun _ => ⟨congrArg Message.ctrlWord hmessage, congrArg Message.payloadWord hmessage⟩⟩

end

/-- Settles O53, command by command. -/
theorem commandsAreFunctionsOfTheirOperands : Obligations.CommandsAreFunctionsOfTheirOperands :=
  fun _ _ _ _ _ hcfg =>
    ⟨encodeCommand_congr hcfg, decodeCommand_congr hcfg, packCommand_congr hcfg, unpackCommand_congr hcfg⟩

/-! ### Stage 1 undoes itself (R187) -/

section
variable (G : Fin 32 → Fin 32) (prbs : Nat → Nat → Bool) (nid : Nat) (lmax : Lmax) (A : BitVec 32)

theorem getLsbD_scr1_of_excluded {q : Fin 32} (hq : excluded G q = true) :
    (scr1 G prbs nid lmax A).getLsbD q = A.getLsbD q := by
  rw [getLsbD_scr1 _ _ _ _ _ _ q.isLt, scr1Bit, if_pos hq]

/-- The positions of the selector's two bits are excluded, so scrambling keeps the selector (R184). -/
theorem stage1Selector_scr1 : stage1Selector G (scr1 G prbs nid lmax A) = stage1Selector G A :=
  stage1Selector_congr (getLsbD_scr1_of_excluded G prbs nid lmax A (by simp [excluded]))
    (getLsbD_scr1_of_excluded G prbs nid lmax A (by simp [excluded]))

theorem scr1_scr1 : scr1 G prbs nid lmax (scr1 G prbs nid lmax A) = A := by
  apply BitVec.eq_of_getLsbD_eq
  intro q hq
  rw [getLsbD_scr1 _ _ _ _ _ _ hq, scr1Bit, stage1Selector_scr1, getLsbD_scr1 _ _ _ _ _ _ hq, scr1Bit]
  cases excluded G q <;> simp

end

/-! ### Signs through the demapper and the stage-2 descrambler (R189, R190, R235) -/

/-- Negating a soft value flips the bit it says. -/
theorem SoftSays.flip {b g : Bool} {x : Soft} (h : SoftSays (b ^^ g) x) : SoftSays b (if g then -x else x) := by
  cases b <;> cases g <;> simpa [SoftSays] using h

theorem getElem_qpskDemap (demod : Sample → Soft × Soft) (Y : Vector Sample 432) {n : Nat} (hn : n < 864) :
    (qpskDemap demod Y)[n] = if n % 2 = 0 then (demod Y[n / 2]).1 else (demod Y[n / 2]).2 := by
  simp [qpskDemap]

/-- Demapping the symbols of a vector says its bits, if the demapper keeps signs (P2). -/
theorem softSays_qpskDemap_qpskMap {p : Params} (hP2 : DemapKeepsSigns p) (F : BitVec 864) {n : Nat} (hn : n < 864) :
    SoftSays (F.getLsbD n) (qpskDemap p.demod (qpskMap F))[n] := by
  obtain ⟨hre, him⟩ := hP2 (F.getLsbD (2 * (n / 2))) (F.getLsbD (2 * (n / 2) + 1))
  rw [getElem_qpskDemap _ _ hn, getElem_qpskMap _ (by omega)]
  split
  · next heven => rwa [show 2 * (n / 2) = n by omega] at hre ⊢
  · next hodd => rwa [show 2 * (n / 2) + 1 = n by omega] at him ⊢

/-- Soft descrambling undoes stage 2 on signs when the two selectors are equal. -/
theorem softSays_descr2Soft {prbs : Nat → Nat → Bool} {nid : Nat} {lmax : Lmax} {ssb issb : BitVec 6} {erm : BitVec 864}
    {sf : Vector Soft 864} (hsel : stage2Selector lmax issb = stage2Selector lmax ssb) {n : Nat} (hn : n < 864)
    (h : SoftSays ((scr2 prbs nid lmax ssb erm).getLsbD n) sf[n]) :
    SoftSays (erm.getLsbD n) (descr2Soft prbs nid lmax issb sf)[n] := by
  rw [getLsbD_scr2 _ _ _ _ _ _ hn, ← hsel] at h
  rw [getElem_descr2Soft _ _ _ _ _ _ hn]
  exact h.flip

/-! ### The noiseless round trip (R158) -/

/-- The reader's samples after the writer are the symbols written (R260). -/
theorem reDemap_reMap {v : Nat} (hv : v < 4) (S : Vector Sample 432) (s : State) : reDemap v (reMap v S s) = S :=
  Vector.ext fun n hn => (getElem_reDemap v _ n hn).trans (memRead_reMap hv S s ⟨n, hn⟩)

/-- The first 32 bits of a vector with its checksum attached are the vector (R201). -/
theorem extractLsb'_attachCrc (p : Params) (B : BitVec 32) : (attachCrc p B).extractLsb' 0 32 = B :=
  BitVec.extractLsb'_append_eq_right

/-- DECODE's stages recover the packed vector from the symbols of a message, under P1 to P3 and P5. -/
theorem decodeSamples_encodeSymbols {p : Params} {code : PolarCode} (hP1 : ChecksumAccepts p) (hP2 : DemapKeepsSigns p)
    (hP3 : CodingNoiseless p code) {c : CodecConfig} {m : Message} {issb : BitVec 6}
    (hP5 : stage2Selector c.lmax issb = stage2Selector c.lmax m.ssb) :
    decodeSamples p c code issb (encodeSymbols p c code m) = .ok (unpack p.G c.lmax (pack p.G c.lmax m) issb) := by
  have hsays (n : Fin 864) : SoftSays ((encodeRateMatched p c code m).getLsbD n)
      (descr2Soft p.prbs c.nid c.lmax issb (qpskDemap p.demod (encodeSymbols p c code m)))[n] :=
    softSays_descr2Soft hP5 n.isLt (softSays_qpskDemap_qpskMap hP2 _ n.isLt)
  obtain ⟨hrm, hpd⟩ := hP3 _ _ hsays
  rw [decodeSamples_of_accepted (Prod.ext rfl hrm) hpd (hP1 _), extractLsb'_attachCrc, scr1_scr1]

/-- Unpacking a packed message returns the fields every packed vector carries, and k_ssb unless Lmax = 64 (R135, R136). -/
theorem unpack_pack_fields {G : Fin 32 → Fin 32} (hG : Function.Injective G) (l : Lmax) (m : Message) (issb : BitVec 6) :
    let u := unpack G l (pack G l m) issb
    u.sfn4 = m.sfn4 ∧ u.hrf = m.hrf ∧ u.kssb = (if l = .l64 then false else m.kssb) ∧ u.payload = m.payload := by
  intro u
  have hkssb : u.kssb = if l = .l64 then false else m.kssb := by
    rw [unpack_kssb]
    split
    · rfl
    · next hl => exact (atLogical_pack hG l m 11).trans (if_neg hl)
  have hu : u = { m with kssb := _, ssb := u.ssb } := unpack_pack_eq hG hkssb rfl
  rw [hu]
  exact ⟨rfl, rfl, rfl, rfl⟩

theorem extractLsb'_ctrlWord_sfn4 (m : Message) : m.ctrlWord.extractLsb' 0 4 = m.sfn4 :=
  BitVec.eq_of_getLsbD_eq fun _ hb => (getLsbD_lowField _ hb).trans (ctrlWord_sfn4 m hb)

/-- Settles O54: the samples read are the symbols written (P4), and DECODE's stages recover their message. -/
theorem noiselessRoundTrip : Obligations.NoiselessRoundTrip := by
  intro p code c s s1 s2 hG hP1 hP2 hP3 hr hf hc hcode henc hr2 hf2 hc2 hcode2 hP4 m issb hP5
  have hv := refShift_lt c.nid
  cases henc.symm.trans (encodeCommand_of_ok (precheckCodec_ok.2 ⟨hr, hf, hc⟩) hcode)
  have hsamples : reDemap (refShift c.nid) s2 = encodeSymbols p c code m := by
    rw [← reDemap_reMap hv (encodeSymbols p c code m) s]
    exact reDemap_congr hv fun i hi => (hP4 i hi).trans (memRead_complete _ i)
  have hmessage : decodeSamples p c code issb (reDemap (refShift c.nid) s2) =
      .ok (unpack p.G c.lmax (pack p.G c.lmax m) issb) := by
    rw [hsamples]
    exact decodeSamples_encodeSymbols hP1 hP2 hP3 hP5
  obtain ⟨hsfn4, hhrf, hkssb, hpayload⟩ := unpack_pack_fields hG c.lmax m issb
  exact ⟨_, decodeCommand_of_message (precheckCodec_ok.2 ⟨hr2, hf2, hc2⟩) hcode2 hmessage, rfl, rfl, rfl, rfl,
    (extractLsb'_ctrlWord_sfn4 _).trans hsfn4, (ctrlWord_hrf _).trans hhrf, (ctrlWord_kssb _).trans hkssb,
    congrArg (BitVec.setWidth 32) hpayload⟩

end Sys2Proof.Machine
end

section
/-! PROOFS. The scrambler and its generator: the stage-1 selector of a packed vector, which generator bits each stage uses, soft
descrambling as the inverse of stage 2, and the recurrences of the default sequence (spec/42_scrambling.md). -/

namespace Sys2Proof.Machine

/-! ### The stage-1 selector of a packed vector (R182) -/

/-- The selector's two bits are bits 2 and 1 of the frame number (R132). -/
theorem stage1Selector_pack {G : Fin 32 → Fin 32} (hG : Function.Injective G) (l : Lmax) (m : Message) :
    stage1Selector G (pack G l m) = m.sfn4.toNat / 2 % 4 := by
  have hhigh : (pack G l m).getLsbD (G 1) = m.sfn4.getLsbD 2 := getLsbD_pack_sfn4 hG l m (b := 2) (by decide)
  have hlow : (pack G l m).getLsbD (G 2) = m.sfn4.getLsbD 1 := getLsbD_pack_sfn4 hG l m (b := 1) (by decide)
  rw [stage1Selector, hhigh, hlow, ← BitVec.testBit_toNat, ← BitVec.testBit_toNat, Nat.toNat_testBit, Nat.toNat_testBit]
  omega

/-- Settles O40: the example is the general formula at 0b0101. -/
theorem stageOneSelectorFromFrameNumber : Obligations.StageOneSelectorFromFrameNumber :=
  ⟨fun _ l m hG => stage1Selector_pack hG l m, fun _ l m hG hm => by rw [stage1Selector_pack hG, hm]; rfl⟩

/-! ### Stage 1 (R184 to R187) -/

/-- Settles O41: the selector's bits are excluded, so a second scrambling XORs the same generator bits. -/
theorem stageOneUndoesItself : Obligations.StageOneUndoesItself := fun G prbs nid l A =>
  ⟨fun p hp hx => getLsbD_scr1_of_excluded G prbs nid l A (q := ⟨p, hp⟩) hx, stage1Selector_scr1 G prbs nid l A,
    scr1_scr1 G prbs nid l A⟩

/-- Settles O42: the table's entry at `p` is the number of positions below `p` that are not excluded. -/
theorem stageOneGeneratorIndices : Obligations.StageOneGeneratorIndices := by
  unfold Obligations.StageOneGeneratorIndices
  intro table
  refine ⟨by decide, fun prbs nid l A p => ?_⟩
  have hentry : table.getD p none = if excluded defaultG p then none else some (keptBelow defaultG p) := by
    revert p
    decide
  rw [getLsbD_scr1 _ _ _ _ _ _ p.isLt, scr1Bit, hentry]
  cases excluded defaultG p <;> rfl

/-! ### Soft descrambling (R190) -/

theorem getElem_descr2Soft_of_eq_zero (prbs : Nat → Nat → Bool) (nid : Nat) (l : Lmax) (issb : BitVec 6) (sf : Vector Soft 864)
    {n : Nat} (hn : n < 864) (h : sf[n] = 0) : (descr2Soft prbs nid l issb sf)[n] = 0 := by
  rw [getElem_descr2Soft _ _ _ _ _ _ hn, h, neg_zero, ite_self]

theorem scr2_scr2 (prbs : Nat → Nat → Bool) (nid : Nat) (l : Lmax) (ssb : BitVec 6) (erm : BitVec 864) :
    scr2 prbs nid l ssb (scr2 prbs nid l ssb erm) = erm := by
  apply BitVec.eq_of_getLsbD_eq
  intro n hn
  rw [getLsbD_scr2 _ _ _ _ _ _ hn, getLsbD_scr2 _ _ _ _ _ _ hn, Bool.xor_assoc, Bool.xor_self, Bool.xor_false]

theorem descr2Soft_descr2Soft (prbs : Nat → Nat → Bool) (nid : Nat) (l : Lmax) (issb : BitVec 6) (sf : Vector Soft 864) :
    descr2Soft prbs nid l issb (descr2Soft prbs nid l issb sf) = sf := by
  apply Vector.ext
  intro n hn
  rw [getElem_descr2Soft _ _ _ _ _ _ hn, getElem_descr2Soft _ _ _ _ _ _ hn]
  split
  · exact neg_neg _
  · rfl

/-- Settles O44: where the generator bit is 1 stage 2 flips the bit and soft descrambling the sign. -/
theorem stageTwoUndoneOnSigns : Obligations.StageTwoUndoneOnSigns := fun prbs nid l ssb issb erm sf =>
  ⟨fun hsel hsays n => softSays_descr2Soft hsel n.isLt (hsays n),
    fun n => getElem_descr2Soft_of_eq_zero prbs nid l issb sf n.isLt, scr2_scr2 prbs nid l ssb erm,
    descr2Soft_descr2Soft prbs nid l issb sf⟩

/-! ### The generator bits each stage uses (R192) -/

theorem keptBelow_eq_count (G : Fin 32 → Fin 32) (n : Nat) : keptBelow G n = Nat.count (fun p => ¬excluded G p) n := by
  induction n with
  | zero => rfl
  | succ n ih =>
    rw [keptBelow, ih, Nat.count_succ]
    cases excluded G n <;> rfl

section
variable {G : Fin 32 → Fin 32} (hG : Function.Injective G)
include hG

/-- A permutation puts the six excluded logical indices at six positions (R184). -/
theorem card_excluded : ((Finset.range 32).filter fun p => excluded G p).card = 6 := by
  have himage : ((Finset.range 32).filter fun p => excluded G p) =
      ({1, 2, 10, 11, 12, 13} : Finset (Fin 32)).image (Fin.val ∘ G) := by
    ext p
    simp only [excluded, Finset.mem_filter, Finset.mem_range, Finset.mem_image, Finset.mem_insert, Finset.mem_singleton,
      Function.comp_apply, Bool.or_eq_true, beq_iff_eq, exists_eq_or_imp, exists_eq_left]
    omega
  rw [himage, Finset.card_image_of_injective _ (Fin.val_injective.comp hG)]
  rfl

/-- Stage 1 uses 26 generator bits. -/
theorem keptBelow_thirtyTwo : keptBelow G 32 = 26 := by
  have hsplit := Finset.card_filter_add_card_filter_not (s := Finset.range 32) (fun p => excluded G p = true)
  rw [card_excluded hG, Finset.card_range] at hsplit
  rw [keptBelow_eq_count, Nat.count_eq_card_filter_range]
  omega

/-- Each of the 26 is used at a position of its own, so the index at `p` is below 26. -/
theorem keptBelow_lt {p : Nat} (hp : p < 32) (hx : ¬excluded G p) : keptBelow G p < 26 := by
  rw [← keptBelow_thirtyTwo hG, keptBelow_eq_count, keptBelow_eq_count]
  exact Nat.count_strict_mono hx hp

/-- The largest index is 29 times the largest selector, 3, and the 25 bits used before the last. -/
theorem stage1Index_le (l : Lmax) (A : BitVec 32) {p : Nat} (hp : p < 32) (hx : ¬excluded G p) :
    l.stride * stage1Selector G A + keptBelow G p ≤ 112 := by
  have hoffset : l.stride * stage1Selector G A ≤ 29 * 3 :=
    Nat.mul_le_mul l.stride_le (Nat.le_of_lt_succ (stage1Selector_lt G A))
  have := keptBelow_lt hG hp hx
  omega

/-- Stage 1 depends on no generator bit above index 112, whatever the permutation. -/
theorem scr1_congr {f g : Nat → Nat → Bool} {nid : Nat} (h : ∀ n ≤ 112, f nid n = g nid n) (l : Lmax) (A : BitVec 32) :
    scr1 G f nid l A = scr1 G g nid l A := by
  apply BitVec.eq_of_getLsbD_eq
  intro p hp
  rw [getLsbD_scr1 _ _ _ _ _ _ hp, getLsbD_scr1 _ _ _ _ _ _ hp, scr1Bit, scr1Bit]
  split
  · rfl
  · next hx => rw [h _ (stage1Index_le hG l A hp hx)]

end

theorem stage2Index_le (l : Lmax) (ssb : BitVec 6) {n : Nat} (hn : n < 864) : stage2Selector l ssb * 864 + n ≤ 6911 := by
  have := stage2Selector_lt l ssb
  omega

section
variable {f g : Nat → Nat → Bool} {nid : Nat} (h : ∀ n ≤ 6911, f nid n = g nid n) (l : Lmax) (ssb : BitVec 6)
include h

theorem scr2_congr (erm : BitVec 864) : scr2 f nid l ssb erm = scr2 g nid l ssb erm := by
  apply BitVec.eq_of_getLsbD_eq
  intro n hn
  rw [getLsbD_scr2 _ _ _ _ _ _ hn, getLsbD_scr2 _ _ _ _ _ _ hn, h _ (stage2Index_le l ssb hn)]

theorem descr2Soft_congr (sf : Vector Soft 864) : descr2Soft f nid l ssb sf = descr2Soft g nid l ssb sf := by
  apply Vector.ext
  intro n hn
  rw [getElem_descr2Soft _ _ _ _ _ _ hn, getElem_descr2Soft _ _ _ _ _ _ hn, h _ (stage2Index_le l ssb hn)]

end

/-- Settles O45: every generator bit a stage reads has an index within its bound. -/
theorem generatorIndexBounds : Obligations.GeneratorIndexBounds := fun _ _ _ =>
  ⟨fun h _ l A hG => scr1_congr hG h l A, fun h l ssb erm sf => ⟨scr2_congr h l ssb erm, descr2Soft_congr h l ssb sf⟩⟩

/-! ### The default sequence (R181) -/

/-- Element `n` of the sequence a shift register holds: what leaves it at step `n`. -/
def shiftSequence (feedback : BitVec 31 → Bool) (start : BitVec 31) (n : Nat) : Bool :=
  (shiftRun feedback start n).getLsbD 0

theorem goldBit_eq (seed n : Nat) :
    goldBit seed n = (shiftSequence x1Feedback 1#31 (n + 1600) ^^
      shiftSequence x2Feedback (BitVec.ofNat 31 seed) (n + 1600)) := rfl

section
variable (feedback : BitVec 31 → Bool) (start : BitVec 31)

/-- After `n` steps the register holds elements `n` to `n + 30`. -/
theorem getLsbD_shiftRun_eq_shiftSequence (n : Nat) {i : Nat} (hi : i < 31) :
    (shiftRun feedback start n).getLsbD i = shiftSequence feedback start (n + i) :=
  getLsbD_shiftRun feedback start n i hi

/-- The first 31 elements are the start value's bits. -/
theorem shiftSequence_initial {n : Nat} (hn : n < 31) : shiftSequence feedback start n = start.getLsbD n := by
  have hzero : shiftRun feedback start 0 = start := shiftRun_eq_iterate feedback start 0
  rw [← Nat.zero_add n, ← getLsbD_shiftRun_eq_shiftSequence feedback start 0 hn, hzero, Nat.zero_add]

/-- Every later element is the feedback of the 31 before it. -/
theorem shiftSequence_feedback (n : Nat) :
    shiftSequence feedback start (n + 31) = feedback (shiftRun feedback start n) := by
  rw [show n + 31 = n + 1 + 30 by omega, ← getLsbD_shiftRun_eq_shiftSequence feedback start (n + 1) (by decide),
    shiftRun_succ, getLsbD_shiftIn, if_pos rfl]

theorem shiftSequence_x1Feedback (n : Nat) :
    shiftSequence x1Feedback start (n + 31) =
      (shiftSequence x1Feedback start (n + 3) ^^ shiftSequence x1Feedback start n) := by
  simp (disch := decide) only [shiftSequence_feedback, x1Feedback, getLsbD_shiftRun_eq_shiftSequence, Nat.add_zero]

theorem shiftSequence_x2Feedback (n : Nat) :
    shiftSequence x2Feedback start (n + 31) =
      (shiftSequence x2Feedback start (n + 3) ^^ shiftSequence x2Feedback start (n + 2) ^^
        shiftSequence x2Feedback start (n + 1) ^^ shiftSequence x2Feedback start n) := by
  simp (disch := decide) only [shiftSequence_feedback, x2Feedback, getLsbD_shiftRun_eq_shiftSequence, Nat.add_zero]

end

/-- x1 starts as the unit vector. -/
theorem shiftSequence_one {n : Nat} (hn : n < 31) : shiftSequence x1Feedback 1#31 n = decide (n = 0) := by
  rw [shiftSequence_initial _ _ hn]
  simp [hn]

/-- x2 starts as the seed's bits. -/
theorem shiftSequence_seed (seed : Nat) {n : Nat} (hn : n < 31) :
    shiftSequence x2Feedback (BitVec.ofNat 31 seed) n = (seed >>> n).testBit 0 := by
  rw [shiftSequence_initial _ _ hn, BitVec.getLsbD_ofNat, decide_eq_true hn, Bool.true_and, Nat.testBit_shiftRight,
    Nat.add_zero]

/-- Settles O46: the two sequences are what the registers of `goldBit` hold. -/
theorem generatorFollowsRecurrences : Obligations.GeneratorFollowsRecurrences := fun seed _ =>
  ⟨shiftSequence x1Feedback 1#31, shiftSequence x2Feedback (BitVec.ofNat 31 seed), shiftSequence_one (by decide),
    fun _ hlo hhi => (shiftSequence_one (by omega)).trans (decide_eq_false (by omega)),
    fun _ hn => shiftSequence_seed seed (by omega), shiftSequence_x1Feedback _, shiftSequence_x2Feedback _, goldBit_eq seed⟩

end Sys2Proof.Machine
end

section
/-! PROOFS. The default channel-coding primitives (log 5): the checksum register over an attached vector, what the check says of a
vector and its parity, and the sub-block interleaver of the rate matcher (spec/43_channel_coding.md). -/

namespace Sys2Proof.Machine

/-! ### The checksum register (R202) -/

/-- Fed its own bits from the top down, the register only shifts. -/
theorem crcRegister_add_of_ownBits {f : Nat → Bool} {n k : Nat} (hk : k ≤ 24)
    (hf : ∀ j < k, f (n + j) = (crcRegister f n).getLsbD (23 - j)) : crcRegister f (n + k) = crcRegister f n <<< k := by
  induction k with
  | zero => simp
  | succ k ih =>
    have hshift : crcRegister f (n + k) = crcRegister f n <<< k := ih (by omega) fun j hj => hf j (by omega)
    have htop : f (n + k) = (crcRegister f n <<< k).getLsbD 23 := by
      rw [hf k (by omega), BitVec.getLsbD_shiftLeft]
      simp [show ¬23 < k by omega]
    calc crcRegister f (n + k + 1)
        = crcStep (crcRegister f n <<< k) (f (n + k)) := by rw [crcRegister, hshift]
      _ = crcRegister f n <<< k <<< 1 := by rw [htop, crcStep_self]
      _ = crcRegister f n <<< (k + 1) := (BitVec.shiftLeft_add _ _ _).symm

/-- Fed all of its own bits, the register ends at 0: the remainder of a vector with its parity bits appended. -/
theorem crcRegister_add_24_eq_zero {f : Nat → Bool} {n : Nat}
    (hf : ∀ j < 24, f (n + j) = (crcRegister f n).getLsbD (23 - j)) : crcRegister f (n + 24) = 0#24 :=
  (crcRegister_add_of_ownBits (le_refl 24) hf).trans (BitVec.shiftLeft_eq_zero (le_refl 24))

/-! ### The attached vector (R201) -/

/-- The first 32 elements of an attached vector are the vector. -/
theorem getLsbD_attachCrc_of_lt (p : Params) (B : BitVec 32) {i : Nat} (hi : i < 32) :
    (attachCrc p B).getLsbD i = B.getLsbD i := by
  rw [attachCrc, BitVec.getLsbD_append, if_pos hi]

/-- Element 32 + i of an attached vector is parity bit i. -/
theorem getLsbD_attachCrc_parity (p : Params) (B : BitVec 32) (i : Nat) :
    (attachCrc p B).getLsbD (32 + i) = (p.crc B).getLsbD i := by
  rw [attachCrc, BitVec.getLsbD_append, if_neg (by omega), Nat.add_sub_cancel_left]

/-- Parity bit i of the default checksum is bit 23 - i of the register after the 32 elements that come before it. -/
theorem getLsbD_attachCrc_params_parity (B : BitVec 32) {i : Nat} (hi : i < 24) :
    (attachCrc params B).getLsbD (32 + i) = (crcRegister (attachCrc params B).getLsbD 32).getLsbD (23 - i) := by
  have hregister : crcRegister (attachCrc params B).getLsbD 32 = crcRegister B.getLsbD 32 :=
    crcRegister_congr fun _ => getLsbD_attachCrc_of_lt params B
  have hparity : params.crc B = crc24c B := rfl
  rw [getLsbD_attachCrc_parity, hparity, crc24c, getLsbD_bitsOf, decide_eq_true hi, Bool.true_and, hregister]

/-- Flipping element 32 + i of an attached vector flips parity bit i alone. -/
theorem attachCrc_xor_twoPow (p : Params) (B : BitVec 32) {i : Nat} (hi : i < 24) :
    attachCrc p B ^^^ BitVec.twoPow 56 (32 + i) = (p.crc B ^^^ BitVec.twoPow 24 i) ++ B := by
  have hflip : BitVec.twoPow 56 (32 + i) = BitVec.twoPow 24 i ++ 0#32 := by
    apply BitVec.eq_of_getLsbD_eq
    intro j hj
    rw [BitVec.getLsbD_append, BitVec.getLsbD_twoPow, BitVec.getLsbD_twoPow, decide_eq_true hi,
      decide_eq_true (show 32 + i < 56 by omega), Bool.true_and, Bool.true_and]
    split
    · rw [BitVec.getLsbD_zero, decide_eq_false (by omega)]
    · exact decide_eq_decide.mpr (by omega)
  rw [hflip, attachCrc, BitVec.xor_append, BitVec.xor_zero]

/-! ### The default check (R203) -/

/-- The check compares the last 24 elements with the checksum of the first 32. -/
theorem crc24cCheck_append (parity : BitVec 24) (B : BitVec 32) : crc24cCheck (parity ++ B) = (crc24c B == parity) := by
  rw [crc24cCheck, BitVec.extractLsb'_append_eq_right, BitVec.extractLsb'_append_eq_left]

/-- Premise P1 of R158 holds of the defaults. -/
theorem checksumAccepts_params : ChecksumAccepts params := fun B =>
  (crc24cCheck_append (crc24c B) B).trans (beq_self_eq_true _)

theorem xor_twoPow_ne_self {n i : Nat} (hi : i < n) (x : BitVec n) : x ^^^ BitVec.twoPow n i ≠ x := by
  intro h
  have hbit := congrArg (BitVec.getLsbD · i) h
  simp [hi] at hbit

/-- The check rejects an attached vector with one parity bit flipped. -/
theorem crcCheck_params_flippedParity (B : BitVec 32) {i : Nat} (hi : i < 24) :
    params.crcCheck (attachCrc params B ^^^ BitVec.twoPow 56 (32 + i)) = false := by
  rw [attachCrc_xor_twoPow params B hi]
  exact (crc24cCheck_append _ B).trans (beq_eq_false_iff_ne.mpr (xor_twoPow_ne_self hi _).symm)

/-- Settles O47: the register is the model's own, which the parity bits drive to 0. -/
theorem checksumDividesAttachedVector : Obligations.ChecksumDividesAttachedVector := fun B =>
  ⟨fun _ => getLsbD_attachCrc_of_lt params B,
    ⟨crcRegister (attachCrc params B).getLsbD, rfl, fun _ _ => rfl, fun _ => getLsbD_attachCrc_params_parity B,
      crcRegister_add_24_eq_zero (n := 32) fun _ => getLsbD_attachCrc_params_parity B⟩,
    checksumAccepts_params B, fun _ => crcCheck_params_flippedParity B⟩

/-! ### The rate matcher (R208) -/

theorem getLsbD_defaultRmTx (call : RateMatchCall) (d : BitVec 512) {k : Nat} (hk : k < 864) :
    (defaultRmTx call d).getLsbD k = d.getLsbD (subBlockIndex (k % 512)) := by
  rw [defaultRmTx, getLsbD_bitsOf, decide_eq_true hk, Bool.true_and]

theorem defaultRmTx_zero (call : RateMatchCall) : defaultRmTx call 0#512 = 0#864 := by
  apply BitVec.eq_of_getLsbD_eq
  intro k hk
  rw [getLsbD_defaultRmTx call _ hk, BitVec.getLsbD_zero, BitVec.getLsbD_zero]

/-- The 864 outputs go round the 512 interleaved bits. -/
theorem getLsbD_defaultRmTx_repeats (call : RateMatchCall) (d : BitVec 512) {k : Nat} (hk : k < 352) :
    (defaultRmTx call d).getLsbD (512 + k) = (defaultRmTx call d).getLsbD k := by
  rw [getLsbD_defaultRmTx call d (by omega), getLsbD_defaultRmTx call d (by omega), Nat.add_mod_left]

/-- Element r of the sub-block in place q is element r of coded sub-block P(q). -/
theorem subBlockIndex_block {q r : Nat} (hr : r < 16) :
    subBlockIndex (16 * q + r) = subBlockPattern.getD q 0 * 16 + r := by
  have hplace : 32 * (16 * q + r) / 512 = q := by omega
  have helement : (16 * q + r) % 16 = r := by omega
  rw [subBlockIndex, hplace]
  exact congrArg _ helement

/-- Every sub-block stands at some place of the pattern. -/
theorem subBlockPattern_surjective : ∀ b < 32, ∃ q < 32, subBlockPattern.getD q 0 = b := by decide

/-- Every coded bit is sent among the first 512 outputs. -/
theorem subBlockIndex_surjective {j : Nat} (hj : j < 512) : ∃ n < 512, subBlockIndex n = j := by
  obtain ⟨q, hq, hblock⟩ := subBlockPattern_surjective (j / 16) (by omega)
  refine ⟨16 * q + j % 16, by omega, ?_⟩
  rw [subBlockIndex_block (Nat.mod_lt j (by decide)), hblock, Nat.div_add_mod']

/-- The first 512 outputs determine the coded bits. -/
theorem eq_of_defaultRmTx_eq {call : RateMatchCall} {d d' : BitVec 512}
    (h : ∀ k < 512, (defaultRmTx call d).getLsbD k = (defaultRmTx call d').getLsbD k) : d = d' := by
  apply BitVec.eq_of_getLsbD_eq
  intro j hj
  obtain ⟨n, hn, rfl⟩ := subBlockIndex_surjective hj
  have hsent := h n hn
  rwa [getLsbD_defaultRmTx call _ (by omega), getLsbD_defaultRmTx call _ (by omega), Nat.mod_eq_of_lt hn] at hsent

/-- Settles O48: nothing is lost because the pattern is a permutation of the 32 sub-blocks. -/
theorem rateMatcherRepeats : Obligations.RateMatcherRepeats := fun call d =>
  ⟨fun _ => getLsbD_defaultRmTx call d, fun _ => getLsbD_defaultRmTx_repeats call d, fun _ => eq_of_defaultRmTx_eq,
    defaultRmTx_zero call⟩

end Sys2Proof.Machine
end

section
/-! PROOFS. The default soft demapper (log 5): the value of a binary32 word and the signs of the constellation points
(spec/44_qpsk.md). -/

namespace Sys2Proof.Machine

/-! ### The demapper's value of a binary32 word (R234) -/

/-- The magnitude a finite word denotes, counted in units of 2^(-150). -/
def binary32Magnitude (w : Word) : Nat :=
  let e := (w.extractLsb' 23 8).toNat
  let f := (w.extractLsb' 0 23).toNat
  (if e = 0 then f else 2 ^ 23 + f) * 2 ^ max e 1

/-- The low 31 bits are the exponent field above the fraction. -/
theorem toNat_exponent_fraction (w : Word) :
    (w.extractLsb' 0 31).toNat = (w.extractLsb' 23 8).toNat * 2 ^ 23 + (w.extractLsb' 0 23).toNat := by
  simp only [BitVec.extractLsb'_toNat, Nat.shiftRight_eq_div_pow]
  omega

theorem binary32Magnitude_eq_zero_iff (w : Word) : binary32Magnitude w = 0 ↔ w.extractLsb' 0 31 = 0#31 := by
  have hfields := toNat_exponent_fraction w
  have hpow : 2 ^ max (w.extractLsb' 23 8).toNat 1 ≠ 0 := by positivity
  simp only [binary32Magnitude, Nat.mul_eq_zero, hpow, or_false]
  rw [← BitVec.toNat_inj, hfields, BitVec.toNat_ofNat]
  split <;> omega

/-- Infinities and NaNs are erasures. -/
theorem binary32Value_of_not_finite {w : Word} (h : w.extractLsb' 23 8 = 0xFF#8) : binary32Value w = 0 :=
  if_pos (congrArg BitVec.toNat h)

/-- A finite word denotes its magnitude with the sign of bit 31. -/
theorem binary32Value_of_finite {w : Word} (h : w.extractLsb' 23 8 ≠ 0xFF#8) :
    binary32Value w =
      if w.getLsbD 31 then -mkRat (binary32Magnitude w) (2 ^ 150) else mkRat (binary32Magnitude w) (2 ^ 150) := by
  rw [Rat.neg_mkRat, ← apply_ite (mkRat · (2 ^ 150))]
  exact if_neg fun he => h (BitVec.eq_of_toNat_eq he)

/-- Both zeros, and infinities and NaNs, are erasures. -/
theorem binary32Value_eq_zero {w : Word} (h : w.extractLsb' 0 31 = 0#31 ∨ w.extractLsb' 23 8 = 0xFF#8) :
    binary32Value w = 0 := by
  by_cases hfin : w.extractLsb' 23 8 = 0xFF#8
  · exact binary32Value_of_not_finite hfin
  · have hmag := (binary32Magnitude_eq_zero_iff w).mpr (h.resolve_right hfin)
    simp [binary32Value_of_finite hfin, hmag]

/-- A finite nonzero word says its sign bit. -/
theorem softSays_binary32Value {w : Word} (hnz : w.extractLsb' 0 31 ≠ 0#31) (hfin : w.extractLsb' 23 8 ≠ 0xFF#8) :
    SoftSays (w.getLsbD 31) (binary32Value w) := by
  have hmag : 0 < binary32Magnitude w := Nat.pos_of_ne_zero (mt (binary32Magnitude_eq_zero_iff w).mp hnz)
  have hpos : 0 < mkRat (binary32Magnitude w) (2 ^ 150) := Rat.mkRat_pos (Int.natCast_pos.mpr hmag) (by positivity)
  rw [binary32Value_of_finite hfin]
  apply SoftSays.flip
  rwa [Bool.xor_self]

/-- The component words are finite and nonzero, and their sign bit is the bit they carry (R232). -/
theorem softSays_componentWord (b : Bool) : SoftSays b (binary32Value (componentWord b)) := by
  have hsign : (componentWord b).getLsbD 31 = b := by cases b <;> decide
  have hnz : (componentWord b).extractLsb' 0 31 ≠ 0#31 := by cases b <;> decide
  have hfin : (componentWord b).extractLsb' 23 8 ≠ 0xFF#8 := by cases b <;> decide
  simpa only [hsign] using softSays_binary32Value hnz hfin

/-- Premise P2 holds of the machine's parameters. -/
theorem demapKeepsSigns_params : DemapKeepsSigns params := fun b0 b1 =>
  ⟨softSays_componentWord b0, softSays_componentWord b1⟩

/-- Settles O49: bit 31 is the only sign in a word's value, and the constellation words are finite and nonzero. -/
theorem demapperSigns : Obligations.DemapperSigns :=
  ⟨demapKeepsSigns_params, fun _ => ⟨binary32Value_eq_zero, softSays_binary32Value⟩⟩

end Sys2Proof.Machine
end

section
/-! PROOFS. The resource-element lists: which elements are data and which reference signal, the closed form of the data list,
and the reader after the writer (spec/45_re_mapping.md). -/

namespace Sys2Proof.Machine

/-! ### Membership and counts (R253, R254, R256) -/

theorem inRowSet_iff {l k : Nat} (hk : k < 240) :
    inRowSet l k = true ↔ (l = 1 ∨ l = 3) ∨ (l = 2 ∧ (k ≤ 47 ∨ 192 ≤ k)) := by
  unfold inRowSet
  split
  · next hl => simp [hl, hk]
  · next hl =>
    split
    · next h2 =>
      simp only [Bool.or_eq_true, Bool.and_eq_true, decide_eq_true_iff]
      omega
    · next h2 => simp [hl, h2]

/-- An element of either list lies in one row only, and its subcarrier decides which of the two lists holds it. -/
theorem mem_flatMap_rowElements {v l k : Nat} {res : Bool} (hk : k < 240) :
    240 * l + k ∈ [1, 2, 3].flatMap (rowElements v res) ↔
      ((l = 1 ∨ l = 3) ∨ (l = 2 ∧ (k ≤ 47 ∨ 192 ≤ k))) ∧ reserved v k = res := by
  rw [← inRowSet_iff hk, List.mem_flatMap]
  constructor
  · rintro ⟨row, -, hmem⟩
    obtain ⟨k', hk', hset, hres, heq⟩ := mem_rowElements.mp hmem
    obtain ⟨rfl, rfl⟩ : row = l ∧ k' = k := by omega
    exact ⟨hset, hres⟩
  · rintro ⟨hset, hres⟩
    have hrow := (inRowSet_iff hk).mp hset
    have hlist : l ∈ [1, 2, 3] := by
      simp only [List.mem_cons, List.not_mem_nil, or_false]
      omega
    exact ⟨l, hlist, mem_rowElements.mpr ⟨k, hk, hset, hres, rfl⟩⟩

/-- The mapping check passes and counts the reference-signal elements too. -/
theorem dmrsRE_length {v : Nat} (hv : v < 4) : (dmrsRE v).length = 144 := by
  have hok := mappingOk_refShift v
  rw [refShift, Nat.mod_eq_of_lt hv, mappingOk, Bool.and_eq_true, decide_eq_true_iff, decide_eq_true_iff] at hok
  exact hok.2

/-- Settles O51: the subcarrier modulo 4 decides between the two lists. -/
theorem dataAndReferenceElementsSplitRows : Obligations.DataAndReferenceElementsSplitRows := by
  refine ⟨fun v hv => ⟨pbchRE_length hv, dmrsRE_length hv⟩, fun v l k hk => ⟨?_, ?_⟩⟩
  · rw [pbchRE, mem_flatMap_rowElements hk, reserved, decide_eq_false_iff_not]
  · rw [dmrsRE, mem_flatMap_rowElements hk, reserved, decide_eq_true_iff]

/-! ### The reader after the writer (R260) -/

/-- Settles O52: writer and reader use the list of N_id mod 4 only. -/
theorem demapReturnsMappedSymbols : Obligations.DemapReturnsMappedSymbols := by
  intro nid nid' S s hmod
  have hshift : refShift nid' = refShift nid := hmod.symm
  rw [hshift]
  exact reDemap_reMap (refShift_lt nid) S s

/-! ### The order of the lists (R255) -/

theorem rowElements_pairwise_lt (v : Nat) (res : Bool) (l : Nat) : (rowElements v res l).Pairwise (· < ·) := by
  rw [rowElements, List.pairwise_map]
  refine (List.pairwise_lt_range.filter _).imp fun {a b} hab => ?_
  exact Nat.add_lt_add_left hab _

/-- Each row rises, and every element of a row is below every element of a later row. -/
theorem pbchRE_pairwise_lt (v : Nat) : (pbchRE v).Pairwise (· < ·) := by
  rw [pbchRE, List.pairwise_flatMap]
  refine ⟨fun l _ => rowElements_pairwise_lt v false l, ?_⟩
  have hrows : [1, 2, 3].Pairwise (· < ·) := by decide
  refine hrows.imp fun {l l'} hl i hi i' hi' => ?_
  obtain ⟨k, hk, -, -, rfl⟩ := mem_rowElements.mp hi
  obtain ⟨k', -, -, -, rfl⟩ := mem_rowElements.mp hi'
  omega

theorem getD_pbchRE_lt_succ {v n : Nat} (hv : v < 4) (hn : n + 1 < 432) :
    (pbchRE v).getD n 0 < (pbchRE v).getD (n + 1) 0 := by
  have hlen : n + 1 < (pbchRE v).length := by rwa [pbchRE_length hv]
  rw [List.getD_eq_getElem _ _ hlen, List.getD_eq_getElem _ _ (Nat.lt_of_succ_lt hlen)]
  exact List.pairwise_iff_getElem.mp (pbchRE_pairwise_lt v) n (n + 1) _ _ (Nat.lt_succ_self n)

/-! ### The closed form (R255)

A stretch of occupied subcarriers that begins at a multiple of 4 goes in blocks of four, each with three data elements. -/

/-- The three places of a data element in a block of four subcarriers. -/
def dataOffsets (v : Nat) : List Nat := [0, 1, 2, 3].filter (fun x => x != v)

theorem dataOffsets_length {v : Nat} (hv : v < 4) : (dataOffsets v).length = 3 :=
  forall_shift (P := fun v => (dataOffsets v).length = 3) rfl rfl rfl rfl hv

/-- The PBCH occupies every one of the `n` subcarriers of row `l` from `a` on. -/
def Occupied (l a n : Nat) : Prop := ∀ k, a ≤ k → k < a + n → inRowSet l k = true

theorem occupied_of_range {l a n : Nat} (hend : a + n ≤ 240)
    (hrow : (l = 1 ∨ l = 3) ∨ (l = 2 ∧ (a + n ≤ 48 ∨ 192 ≤ a))) : Occupied l a n :=
  fun _ _ _ => (inRowSet_iff (by omega)).mpr (by omega)

theorem Occupied.left {l a m n : Nat} (h : Occupied l a (m + n)) : Occupied l a m := fun k hlo _ => h k hlo (by omega)

theorem Occupied.right {l a m n : Nat} (h : Occupied l a (m + n)) : Occupied l (a + m) n :=
  fun k _ _ => h k (by omega) (by omega)

/-- The data elements of row `l` among the `n` subcarriers from `a` on. -/
def rowPart (v l a n : Nat) : List Nat :=
  ((List.range' a n).filter fun k => inRowSet l k && (reserved v k == false)).map (elementIndex l)

theorem rowElements_eq_rowPart (v l : Nat) : rowElements v false l = rowPart v l 0 240 := by
  rw [rowElements, List.range_eq_range']
  rfl

theorem rowPart_append (v l a m n : Nat) : rowPart v l a m ++ rowPart v l (a + m) n = rowPart v l a (m + n) := by
  simp only [rowPart, ← List.map_append, ← List.filter_append, List.range'_append_1]

theorem rowPart_of_unoccupied {v l a n : Nat} (h : ∀ k, a ≤ k → k < a + n → inRowSet l k = false) :
    rowPart v l a n = [] := by
  rw [rowPart, List.map_eq_nil_iff, List.filter_eq_nil_iff]
  intro k hk
  obtain ⟨hlo, hhi⟩ := List.mem_range'_1.mp hk
  simp [h k hlo hhi]

/-- One occupied block holds one data element for each of the three offsets. -/
theorem rowPart_block {v l a : Nat} (ha : a % 4 = 0) (h : Occupied l a 4) :
    rowPart v l a 4 = (dataOffsets v).map fun x => 240 * l + a + x := by
  have hrange : List.range' a 4 = [0, 1, 2, 3].map (a + ·) := rfl
  have hkeep : ∀ x ∈ [0, 1, 2, 3], (inRowSet l (a + x) && (reserved v (a + x) == false)) = (x != v) := by
    intro x hx
    have hx4 : x < 4 := by
      simp only [List.mem_cons, List.not_mem_nil, or_false] at hx
      omega
    have hmod : (a + x) % 4 = x := by omega
    rw [h (a + x) (by omega) (by omega), reserved, hmod, Bool.true_and]
    by_cases hxv : x = v <;> simp [hxv]
  rw [rowPart, hrange, List.filter_map, List.map_map]
  refine Eq.trans (congrArg _ (List.filter_congr hkeep)) (List.map_congr_left fun x _ => ?_)
  exact (Nat.add_assoc _ _ _).symm

theorem rowPart_length {v l a m : Nat} (hv : v < 4) (ha : a % 4 = 0) (h : Occupied l a (4 * m)) :
    (rowPart v l a (4 * m)).length = 3 * m := by
  induction m with
  | zero => rfl
  | succ m ih =>
    have h : Occupied l a (4 * m + 4) := h
    rw [Nat.mul_succ, ← rowPart_append, List.length_append, ih h.left, rowPart_block (by omega) h.right,
      List.length_map, dataOffsets_length hv, Nat.mul_succ]

/-- Data element n of an occupied stretch is in block n / 3, at offset number n mod 3. -/
theorem getD_rowPart {v l a m n : Nat} (hv : v < 4) (ha : a % 4 = 0) (h : Occupied l a (4 * m))
    (hn : n < 3 * m) :
    (rowPart v l a (4 * m)).getD n 0 = 240 * l + a + 4 * (n / 3) + (dataOffsets v).getD (n % 3) 0 := by
  induction m with
  | zero => omega
  | succ m ih =>
    have h : Occupied l a (4 * m + 4) := h
    have hlen := rowPart_length hv ha h.left
    rw [Nat.mul_succ, ← rowPart_append]
    by_cases hlt : n < 3 * m
    · rw [List.getD_append _ _ _ _ (by rwa [hlen]), ih h.left hlt]
    · have hdiv : n / 3 = m := by omega
      have hmod : n - 3 * m = n % 3 := by omega
      have hoff : n % 3 < (dataOffsets v).length := by
        rw [dataOffsets_length hv]
        exact Nat.mod_lt n (by decide)
      rw [List.getD_append_right _ _ _ _ (by omega), hlen, hmod, hdiv,
        rowPart_block (by omega) h.right, List.getD_eq_getElem _ _ (by rwa [List.length_map]), List.getElem_map,
        List.getD_eq_getElem _ _ hoff, ← Nat.add_assoc (240 * l) a (4 * m)]

/-- Row 2 is occupied at its two ends only (R254). -/
theorem rowElements_two (v : Nat) : rowElements v false 2 = rowPart v 2 0 48 ++ rowPart v 2 192 48 := by
  have hmiddle : rowPart v 2 48 144 = [] := by
    refine rowPart_of_unoccupied fun k hlo hhi => ?_
    rw [← Bool.not_eq_true, inRowSet_iff (by omega)]
    omega
  calc rowElements v false 2
    _ = rowPart v 2 0 (48 + 144 + 48) := rowElements_eq_rowPart v 2
    _ = rowPart v 2 0 48 ++ rowPart v 2 48 144 ++ rowPart v 2 192 48 := by rw [← rowPart_append, ← rowPart_append]
    _ = rowPart v 2 0 48 ++ rowPart v 2 192 48 := by rw [hmiddle, List.append_nil]

/-- The data list is four occupied stretches in order. -/
theorem pbchRE_eq_rowParts (v : Nat) :
    pbchRE v =
      rowPart v 1 0 (4 * 60) ++ (rowPart v 2 0 (4 * 12) ++ (rowPart v 2 192 (4 * 12) ++ rowPart v 3 0 (4 * 60))) := by
  calc pbchRE v
    _ = rowElements v false 1 ++ (rowElements v false 2 ++ rowElements v false 3) := by simp [pbchRE]
    _ = _ := by rw [rowElements_eq_rowPart, rowElements_two, rowElements_eq_rowPart, List.append_assoc]

/-- The four ranges of R255, one for each stretch. -/
theorem getD_pbchRE {v n : Nat} (hv : v < 4) (hn : n < 432) :
    (pbchRE v).getD n 0 =
      if n ≤ 179 then 240 + 4 * (n / 3) + (dataOffsets v).getD (n % 3) 0
      else if n ≤ 215 then 480 + 4 * ((n - 180) / 3) + (dataOffsets v).getD ((n - 180) % 3) 0
      else if n ≤ 251 then 672 + 4 * ((n - 216) / 3) + (dataOffsets v).getD ((n - 216) % 3) 0
      else 720 + 4 * ((n - 252) / 3) + (dataOffsets v).getD ((n - 252) % 3) 0 := by
  have row1 : Occupied 1 0 (4 * 60) := occupied_of_range (by decide) (by decide)
  have low2 : Occupied 2 0 (4 * 12) := occupied_of_range (by decide) (by decide)
  have high2 : Occupied 2 192 (4 * 12) := occupied_of_range (by decide) (by decide)
  have row3 : Occupied 3 0 (4 * 60) := occupied_of_range (by decide) (by decide)
  have len1 := rowPart_length hv rfl row1
  have lenLow2 := rowPart_length hv rfl low2
  have lenHigh2 := rowPart_length hv rfl high2
  rw [pbchRE_eq_rowParts]
  split_ifs with h1 h2 h3
  · rw [List.getD_append _ _ _ _ (by omega), getD_rowPart hv rfl row1 (by omega)]
  · rw [List.getD_append_right _ _ _ _ (by omega), len1, List.getD_append _ _ _ _ (by omega),
      getD_rowPart hv rfl low2 (by omega)]
  · rw [List.getD_append_right _ _ _ _ (by omega), len1, List.getD_append_right _ _ _ _ (by omega), lenLow2,
      List.getD_append _ _ _ _ (by omega), Nat.sub_sub, getD_rowPart hv rfl high2 (by omega)]
  · rw [List.getD_append_right _ _ _ _ (by omega), len1, List.getD_append_right _ _ _ _ (by omega), lenLow2,
      List.getD_append_right _ _ _ _ (by omega), lenHigh2, Nat.sub_sub, Nat.sub_sub, getD_rowPart hv rfl row3 (by omega)]

/-- Settles O50: the list is four stretches of whole blocks, and it rises. -/
theorem dataElementsClosedForm : Obligations.DataElementsClosedForm :=
  fun _ hv _ hn => ⟨getD_pbchRE hv hn, getD_pbchRE_lt_succ hv⟩

end Sys2Proof.Machine
end

section
/-! PROOFS. The errors: how each command can end, what each error changes, and the answer a host that addresses the aperture gets from
every step (spec/60_exceptions.md). -/

namespace Sys2Proof.Machine

/-! ### Every step answers (R280) -/

@[simp] theorem hostWriteWord_pending (s : State) (off : Nat) (w : Word) :
    (hostWriteWord s off w).pending = s.pending := by
  simp [hostWriteWord, apply_ite State.pending]

/-- Serving an event makes no other event. -/
theorem serveEvent_pending {e : HostEvent} {s t : State} (h : serveEvent e s = .next t) : t.pending = s.pending := by
  rcases serveEvent_cases h with ⟨-, rfl⟩ | ⟨w, off, -, -, ht⟩ | ⟨w, off, data, -, -, -, rfl | ⟨-, -, rfl⟩⟩ |
    ⟨data, i, -, -, -, hx⟩ | ⟨data, op, -, -, -, rfl⟩
  · rfl
  · rw [ht]
  · rfl
  · exact hostWriteWord_pending ..
  · rw [exec_eq_withOutputs hx, withOutputs_pending, beginCommand_pending]
  · rfl

/-- A step takes the first event off the list (R81, log 1). -/
theorem step_pending {s t : State} (h : step s = .next t) : t.pending = s.pending.tail := by
  cases hp : s.pending with
  | nil =>
    cases h.symm.trans (step_idle hp)
    rw [hp, List.tail_nil]
  | cons e rest => exact serveEvent_pending (step_event hp ▸ h)

/-- Under the invariant the only fault is an access outside the aperture: READY = 1 comes with CODE. -/
theorem step_ne_fault {s : State} (hi : Inv s) (ha : ∀ e ∈ s.pending, e.inAperture = true) (f : Fault) :
    step s ≠ .fault f := by
  rw [ne_eq, step_fault_iff]
  rintro (⟨off, -, hoff, w, rest, hp⟩ | ⟨-, w, rest, -, i, -, hx⟩)
  · have hlt : off < 0x4000 := by
      rcases hp with hp | ⟨d, hp⟩
      · exact of_decide_eq_true (ha (.read w off) (by rw [hp]; exact List.mem_cons_self))
      · exact of_decide_eq_true (ha (.write w off d) (by rw [hp]; exact List.mem_cons_self))
    exact Nat.not_le.2 hlt hoff
  · obtain ⟨-, hready, hcode, -⟩ := exec_fault_iff.1 hx
    have hpresent : s.code.isSome = true := hi.ready_code.symm.trans hready
    rw [show s.code = none from hcode] at hpresent
    cases hpresent

/-- Under the invariant no access is refused: BUSY is 0 between steps (R36). -/
theorem step_ne_refused {s : State} (hi : Inv s) (r : Refusal) : step s ≠ .refused r := by
  rw [ne_eq, step_refused_iff]
  rintro ⟨-, hb, -⟩
  cases hi.not_busy.symm.trans hb

/-- A host that addresses the aperture is answered, and its next event is the one after. -/
theorem exists_step {s : State} (hi : Inv s) (ha : ∀ e ∈ s.pending, e.inAperture = true) :
    ∃ t, step s = .next t ∧ Inv t ∧ t.pending = s.pending.tail := by
  cases h : step s with
  | next t => exact ⟨t, rfl, stepKeepsInvariant s t hi h, step_pending h⟩
  | fault f => exact absurd h (step_ne_fault hi ha f)
  | refused r => exact absurd h (step_ne_refused hi r)

/-- Settles O16, by induction on the number of steps: each answers, and its host still addresses the aperture. -/
theorem addressedHostIsAlwaysAnswered : Obligations.AddressedHostIsAlwaysAnswered := by
  intro n
  induction n with
  | zero => exact fun s hi _ => ⟨s, rfl, hi, rfl⟩
  | succ n ih =>
    intro s hi ha
    obtain ⟨s', hstep, hi', hp⟩ := exists_step hi ha
    have ha' : ∀ e ∈ s'.pending, e.inAperture = true := fun e he => ha e (List.mem_of_mem_tail (hp ▸ he))
    obtain ⟨t, hrun, ht, hpt⟩ := ih s' hi' ha'
    exact ⟨t, (run_succ_of_step hstep n).trans hrun, ht, by rw [hpt, hp, List.drop_tail]⟩

/-! ### A reserved OP (R102, R290) -/

/-- A write of CMD with a reserved OP starts no command: it ends at once with ILLEGAL_CMD. -/
theorem startCommand_of_reserved {w : Word} {e : DecodeError} (h : decode w = .error e) (s : State) :
    startCommand w s = .next { s with status := s.status.finish .illegalCmd .none } := by
  simp only [startCommand, h, illegalCommand, raise_nothing]
  rfl

/-- Where BUSY is 0 the end of a command writes ERR and STAGE alone. -/
theorem finish_of_not_busy {t : Status} (h : t.busy = false) (e : ErrorCode) (st : StageCode) :
    t.finish e st = { t with err := e, stage := st } := by
  rw [Status.finish, ← h]

theorem step_of_reserved {s : State} {w : Word} {rest : List HostEvent} (hp : s.pending = .write .w32 0 w :: rest)
    (hb : s.status.busy = false) (hop : 6 ≤ (opField w).toNat) :
    step s = .next { s with pending := rest, status := { s.status with err := .illegalCmd, stage := .none } } := by
  rw [step_command hp hb, startCommand_of_reserved (decode_reserved hop)]
  simp only [finish_of_not_busy hb]

/-- Settles O4: the OP is refused by the decoder, and the command's end finds BUSY as the host left it. -/
theorem reservedOpcodeEndsIllegal : Obligations.ReservedOpcodeEndsIllegal := by
  refine ⟨fun s w rest => step_of_reserved, fun s rest hp hs => ⟨?_, _, step_of_reserved hp ?_ (by decide), ?_⟩⟩
  · rw [hs]
    decide
  · rw [hs]
  · simp only [hs]
    decide

/-! ### How each command can end (R292) -/

/-- ERR and STAGE as a command leaves them. -/
def State.ending (s : State) : ErrorCode × StageCode := (s.status.err, s.status.stage)

theorem ending_of_status {s : State} {t : Status} {e : ErrorCode} {st : StageCode} (h : s.status = t.finish e st) :
    s.ending = (e, st) := by
  rw [State.ending, h, finish_err, finish_stage]

/-- INIT ends with one of its two errors, or completes (R287). -/
theorem initCommand_ending {p : Params} {s t : State} (h : initCommand p s = .next t) :
    t.ending = (.noFacet, .init) ∨ t.ending = (.initFail, .init) ∨ t.ending = (.ok, .none) := by
  rcases initCommand_cases p s with ⟨h', -⟩ | h' | ⟨c, h', -⟩ <;> cases h.symm.trans h'
  · exact .inl (ending_of_status (raise_nothing_status ..))
  · exact .inr (.inl (ending_of_status (raise_nothing_status ..)))
  · exact .inr (.inr rfl)

/-- ENCODE ends with the error of a check, or completes: none of its stages fails (R212, R291). -/
theorem encodeCommand_ending {p : Params} {s t : State} (h : encodeCommand p s = .next t) :
    (∃ e, precheckCodec .enc s = .error e ∧ t.ending = (e, .none)) ∨ t.ending = (.ok, .none) := by
  rcases encodeCommand_cases p s with ⟨e, hpre, h'⟩ | ⟨-, h'⟩ | ⟨c, code, -, -, h'⟩ <;> cases h.symm.trans h'
  · exact .inl ⟨e, hpre, ending_of_status (raise_nothing_status ..)⟩
  · exact .inr rfl

/-- DECODE ends with the error of a check, with that of a stage, or completes (R155). -/
theorem decodeCommand_ending {p : Params} {s t : State} (h : decodeCommand p s = .next t) :
    (∃ e, precheckCodec .dec s = .error e ∧ t.ending = (e, .none)) ∨
      t.ending = (.primitiveFail, .rateMatch) ∨ t.ending = (.primitiveFail, .polar) ∨ t.ending = (.decodeReject, .crc) ∨
      t.ending = (.ok, .none) := by
  rcases decodeCommand_cases p s with ⟨e, hpre, h'⟩ | ⟨-, h'⟩ | ⟨c, code, -, -, ⟨e, hd, h'⟩ | ⟨m, -, h'⟩⟩ <;>
    cases h.symm.trans h'
  · exact .inl ⟨e, hpre, ending_of_status (raise_nothing_status ..)⟩
  · right
    rw [ending_of_status (raise_decodeResult_status ..)]
    rcases decodeSamples_error hd with rfl | rfl | rfl <;> decide
  · exact .inr (.inr (.inr (.inr rfl)))

/-- PACK and UNPACK end with INVALID_INPUT where CFG is no configuration, or complete (R286). -/
theorem exec_pack_unpack_ending {i : Instr} {s t : State} (hi : i = .pack ∨ i = .unpack) (h : exec i s = .next t) :
    (codecConfig s.cfg = none ∧ t.ending = (.invalidInput, .none)) ∨ t.ending = (.ok, .none) := by
  cases hc : codecConfig s.cfg with
  | none =>
    cases h.symm.trans (exec_pack_unpack_of_none hi hc)
    exact .inl ⟨rfl, rfl⟩
  | some c =>
    right
    rcases hi with rfl | rfl
    · cases h.symm.trans (exec_pack_of_some hc)
      rfl
    · cases h.symm.trans (exec_unpack_of_some hc)
      rfl

/-- The pairs of ERR and STAGE each command can end with: R292 without INTERNAL, which no command reaches (R291). -/
def commandEndings : Instr → List (ErrorCode × StageCode)
  | .nop => [(.ok, .none)]
  | .init => [(.ok, .none), (.noFacet, .init), (.initFail, .init)]
  | .encode => [(.ok, .none), (.notReady, .none), (.facetDisabled, .none), (.invalidInput, .none)]
  | .decode =>
    [(.ok, .none), (.notReady, .none), (.facetDisabled, .none), (.invalidInput, .none), (.primitiveFail, .rateMatch),
      (.primitiveFail, .polar), (.decodeReject, .crc)]
  | .pack => [(.ok, .none), (.invalidInput, .none)]
  | .unpack => [(.ok, .none), (.invalidInput, .none)]

theorem exec_ending {i : Instr} {s t : State} (h : exec i s = .next t) : t.ending ∈ commandEndings i := by
  cases i with
  | nop => cases h; exact List.mem_singleton_self _
  | init => rcases initCommand_ending h with ht | ht | ht <;> rw [ht] <;> decide
  | encode =>
    rcases encodeCommand_ending h with ⟨e, hpre, ht⟩ | ht <;> rw [ht]
    · rcases precheckCodec_error hpre with rfl | rfl | rfl <;> decide
    · decide
  | decode =>
    rcases decodeCommand_ending h with ⟨e, hpre, ht⟩ | ht | ht | ht | ht <;> rw [ht]
    · rcases precheckCodec_error hpre with rfl | rfl | rfl <;> decide
    all_goals decide
  | pack | unpack => rcases exec_pack_unpack_ending (by decide) h with ⟨-, ht⟩ | ht <;> rw [ht] <;> decide

/-- An error that is in none of a command's endings is not one it ends with. -/
theorem exec_err_ne {i : Instr} {s t : State} (h : exec i s = .next t) {e : ErrorCode}
    (he : e ∉ (commandEndings i).map Prod.fst) : t.status.err ≠ e := by
  rintro rfl
  exact he (List.mem_map_of_mem (f := Prod.fst) (exec_ending h))

/-- Settles O19: the table has every ending of the command, and INTERNAL besides. -/
theorem errorsOfEachCommand : Obligations.ErrorsOfEachCommand := by
  intro i s t h
  have hmem := exec_ending h
  rw [State.ending] at hmem
  generalize (t.status.err, t.status.stage) = x at hmem ⊢
  cases i <;> exact List.Sublist.subset (by decide) hmem

/-- Settles O20: INTERNAL is the ending of no command. -/
theorem internalNeverRaised : Obligations.InternalNeverRaised :=
  ⟨fun nid => ⟨pbchRE_length (refShift_lt nid), dmrsRE_length (refShift_lt nid)⟩,
    fun i _ _ h => exec_err_ne h (by cases i <;> decide)⟩

/-! ### The outcomes of INIT (R287) -/

/-- A group of primitives INIT needs fails. -/
theorem primitivesOk_eq_false_iff {p : Params} {enE enD : Bool} :
    primitivesOk p enE enD = false ↔
      p.primInitOk .common = false ∨ (enE = true ∧ p.primInitOk .encodeFacet = false) ∨
        (enD = true ∧ p.primInitOk .decodeFacet = false) := by
  simp only [primitivesOk, Bool.and_eq_false_iff, Bool.or_eq_false_iff, Bool.not_eq_false', or_assoc]

theorem primitivesOk_of_needed {p : Params} {enE enD : Bool} (hcommon : p.primInitOk .common = true)
    (henc : enE = true → p.primInitOk .encodeFacet = true) (hdec : enD = true → p.primInitOk .decodeFacet = true) :
    primitivesOk p enE enD = true := by
  rw [← Bool.not_eq_false, primitivesOk_eq_false_iff]
  simp +contextual [hcommon, henc, hdec]

theorem initCode_eq_none_iff {p : Params} :
    initCode p = none ↔ p.getCode 56 864 9 = none ∨ ∃ c, p.getCode 56 864 9 = some c ∧ c.motherLength ≠ 512 := by
  unfold initCode
  cases p.getCode 56 864 9 <;> simp

theorem initCode_of_length {p : Params} {c : PolarCode} (h : p.getCode 56 864 9 = some c) (hlen : c.motherLength = 512) :
    initCode p = some c := by
  simp [initCode, h, hlen]

theorem initCommand_of_no_facet {p : Params} {s : State} (henc : enEncField s.cfg = false)
    (hdec : enDecField s.cfg = false) :
    initCommand p s = .next { tearDown s with status := (tearDown s).status.finish .noFacet .init } := by
  rw [← raise_nothing]
  exact if_pos ⟨henc, hdec⟩

/-- INIT with an enabled facet, where a primitive or the code construction fails. -/
theorem initCommand_of_fail {p : Params} {s : State} (hen : (enEncField s.cfg || enDecField s.cfg) = true)
    (hfail : primitivesOk p (enEncField s.cfg) (enDecField s.cfg) = false ∨ initCode p = none) :
    initCommand p s = .next { tearDown s with status := (tearDown s).status.finish .initFail .init } := by
  have hfacet : ¬(enEncField s.cfg = false ∧ enDecField s.cfg = false) := by
    rwa [← Bool.or_eq_false_iff, Bool.not_eq_false]
  rw [← raise_nothing]
  refine (if_neg hfacet).trans ?_
  split
  · rfl
  · next hprim => rw [hfail.resolve_left hprim]

/-- Settles O24: the first of INIT's checks that fails decides its end; no other command ends with its errors. -/
theorem initOutcomes : Obligations.InitOutcomes := by
  refine ⟨⟨rfl, rfl, rfl⟩, fun i s t hi h => ?_, fun w op s t hd h => ?_, fun p s => ⟨initCommand_of_no_facet,
    fun hen hfail => initCommand_of_fail hen ?_, fun c hen hcommon henc hdec hcode hlen => ?_, fun hcfg hcrc => ?_⟩⟩
  · have hother : ErrorCode.noFacet ∉ (commandEndings i).map Prod.fst ∧ .initFail ∉ (commandEndings i).map Prod.fst := by
      revert hi
      cases i <;> decide
    exact ⟨exec_err_ne h hother.1, exec_err_ne h hother.2⟩
  · cases h.symm.trans (startCommand_of_reserved hd s)
    exact ⟨ErrorCode.noConfusion, ErrorCode.noConfusion⟩
  · rw [primitivesOk_eq_false_iff, initCode_eq_none_iff]
    tauto
  · exact initCommand_of_ok hen (primitivesOk_of_needed hcommon henc hdec) (initCode_of_length hcode hlen)
  · refine ⟨_, initCommand_of_no_facet (by rw [hcfg]; decide) (by rw [hcfg]; decide), ?_⟩
    change ((tearDown s).status.finish .noFacet .init).word = _
    have hstatus : (tearDown s).status.finish .noFacet .init = ⟨false, false, false, .noFacet, .init, false, false⟩ := by
      rw [Status.finish, tearDown_status, hcrc]
    rw [hstatus]
    decide

/-! ### The checks before the first stage (R282, R284 to R286) -/

theorem precheckCodec_of_no_facet {f : Facet} {s : State} (hr : s.status.ready = true)
    (hf : facetReady f s.status = false) : precheckCodec f s = .error .facetDisabled := by
  simp [precheckCodec, hr, hf]

theorem precheckCodec_of_illegal {f : Facet} {s : State} (hr : s.status.ready = true) (hf : facetReady f s.status = true)
    (hc : codecConfig s.cfg = none) : precheckCodec f s = .error .invalidInput := by
  simp [precheckCodec, hr, hf, hc]

/-- The last check fails only where CFG is no configuration. -/
theorem codecConfig_none_of_precheckCodec {f : Facet} {s : State} (h : precheckCodec f s = .error .invalidInput) :
    codecConfig s.cfg = none := by
  by_contra hc
  obtain ⟨c, hc⟩ := Option.ne_none_iff_exists'.1 hc
  simp only [precheckCodec, hc] at h
  split_ifs at h <;> cases h

/-- A command ends with INVALID_INPUT only where CFG is no configuration. -/
theorem codecConfig_none_of_invalidInput {i : Instr} {s t : State} (h : exec i s = .next t)
    (he : t.status.err = .invalidInput) : codecConfig s.cfg = none := by
  have herr : ∀ {e st}, t.ending = (e, st) → e = .invalidInput := fun ht => (congrArg Prod.fst ht).symm.trans he
  cases i with
  | nop | init => exact absurd he (exec_err_ne h (by decide))
  | encode =>
    rcases encodeCommand_ending h with ⟨e, hpre, ht⟩ | ht
    · exact codecConfig_none_of_precheckCodec (herr ht ▸ hpre)
    · cases herr ht
  | decode =>
    rcases decodeCommand_ending h with ⟨e, hpre, ht⟩ | ht
    · exact codecConfig_none_of_precheckCodec (herr ht ▸ hpre)
    · rcases ht with ht | ht | ht | ht <;> cases herr ht
  | pack | unpack =>
    rcases exec_pack_unpack_ending (by decide) h with ⟨hc, -⟩ | ht
    · exact hc
    · cases herr ht

/-- Settles O26: READY is the first check. -/
theorem notReadyEndsCodecCommands : Obligations.NotReadyEndsCodecCommands :=
  ⟨fun _ h => ⟨encodeCommand_of_error (precheckCodec_of_not_ready .enc h),
      decodeCommand_of_error (precheckCodec_of_not_ready .dec h)⟩,
    ⟨_, encodeCommand_of_error (p := params) (s := State.reset) (precheckCodec_of_not_ready .enc rfl), rfl⟩⟩

/-- Settles O27: the facet is the second check. -/
theorem missingFacetEndsCodecCommands : Obligations.MissingFacetEndsCodecCommands := by
  refine ⟨fun s hr hf => encodeCommand_of_error (precheckCodec_of_no_facet hr hf),
    fun s hr hf => decodeCommand_of_error (precheckCodec_of_no_facet hr hf), fun s hs => ?_⟩
  refine ⟨_, decodeCommand_of_error (precheckCodec_of_no_facet (by rw [hs]) (by rw [hs]; rfl)), ?_⟩
  change ((clearCrcOk s).status.finish .facetDisabled .none).word = _
  rw [clearCrcOk_status, hs]
  decide

/-- Settles O28: CFG is the last check of ENCODE and DECODE and the only one of PACK and UNPACK. -/
theorem invalidInputProducesNoOutput : Obligations.InvalidInputProducesNoOutput := by
  refine ⟨fun s hcfg => ?_, fun i s t hn hl h he => ?_, fun s hs hcfg => ?_⟩
  · have hc := codecConfig_none.2 hcfg
    exact ⟨fun hr hf => encodeCommand_of_error (precheckCodec_of_illegal hr hf hc),
      fun hr hf => decodeCommand_of_error (precheckCodec_of_illegal hr hf hc),
      exec_pack_unpack_of_none (.inl rfl) hc, exec_pack_unpack_of_none (.inr rfl) hc⟩
  · rcases codecConfig_none.1 (codecConfig_none_of_invalidInput h he) with hn' | hl'
    · exact Nat.not_lt.2 hn hn'
    · exact hl hl'
  · have hc : codecConfig s.cfg = none := by rw [hcfg]; decide
    refine ⟨_, encodeCommand_of_error (precheckCodec_of_illegal (by rw [hs]) (by rw [hs]; rfl) hc), ?_⟩
    change (s.status.finish .invalidInput .none).word = _
    rw [hs]
    decide

/-! ### The errors of DECODE's stages (R288, R289) -/

section
variable {p : Params} {c : CodecConfig} {code : PolarCode} {issb : BitVec 6} {Y : Vector Sample 432}

/-- What the receive rate matcher gives for the samples read. -/
def rateRecovered (p : Params) (c : CodecConfig) (issb : BitVec 6) (Y : Vector Sample 432) : Vector Soft 512 × Bool :=
  p.rmRx rateMatchCall (descr2Soft p.prbs c.nid c.lmax issb (qpskDemap p.demod Y))

theorem decodeSamples_of_rateMatchFail (hrm : (rateRecovered p c issb Y).2 = false) :
    decodeSamples p c code issb Y = .error (.primitiveFail, .rateMatch) :=
  if_pos hrm

theorem decodeSamples_of_polarFail (hrm : (rateRecovered p c issb Y).2 = true)
    (hpd : (p.polarDecode (rateRecovered p c issb Y).1 code).2 = false) :
    decodeSamples p c code issb Y = .error (.primitiveFail, .polar) :=
  (if_neg (ne_false_of_eq_true hrm)).trans (if_pos hpd)

theorem decodeSamples_of_crcFail (hrm : (rateRecovered p c issb Y).2 = true)
    (hpd : (p.polarDecode (rateRecovered p c issb Y).1 code).2 = true)
    (hcrc : p.crcCheck (p.polarDecode (rateRecovered p c issb Y).1 code).1 = false) :
    decodeSamples p c code issb Y = .error (.decodeReject, .crc) :=
  (if_neg (ne_false_of_eq_true hrm)).trans ((if_neg (ne_false_of_eq_true hpd)).trans (if_pos hcrc))

end

/-- Bits 11:4 of the STATUS word are ERR with STAGE above it (R109). -/
theorem statusWord_and_errStage (t : Status) :
    t.word &&& 0x00000FF0#32 = t.err.code.setWidth 32 <<< 4 ||| t.stage.code.setWidth 32 <<< 8 := by
  have hflag : ∀ b, ∀ i ∈ [0, 1, 2, 12, 13], flagAt b i &&& 0x00000FF0#32 = 0#32 := by decide
  have herr : ∀ x : BitVec 4, x.setWidth 32 <<< 4 &&& 0x00000FF0#32 = x.setWidth 32 <<< 4 := by decide
  have hstage : ∀ x : BitVec 4, x.setWidth 32 <<< 8 &&& 0x00000FF0#32 = x.setWidth 32 <<< 8 := by decide
  simp only [Status.word, BitVec.and_or_distrib_right, hflag _ 0 (by decide), hflag _ 1 (by decide), hflag _ 2 (by decide),
    hflag _ 12 (by decide), hflag _ 13 (by decide), herr, hstage, BitVec.zero_or, BitVec.or_zero]

/-- A stage's error ends DECODE with the results free under their masks and CRC_OK = 0; nothing else the spec gives the block
changes (R283). -/
theorem decodeCommand_stageError_outcome {p : Params} {s : State} {c : CodecConfig} {code : PolarCode} {e : ErrorCode}
    {st : StageCode} (hp : precheckCodec .dec s = .ok c) (hcode : s.code = some code)
    (he : decodeSamples p c code (ssbOperand s.decSsb) (reDemap (refShift c.nid) s) = .error (e, st)) :
    ∃ t, decodeCommand p s = .next t ∧
      t = { s with
        status := { s.status with crcOk := false, err := e, stage := st, busy := false }
        resCtrl := t.resCtrl
        resPayload := t.resPayload
        freeIndex := t.freeIndex } ∧
      t.resCtrl &&& ~~~ctrlMask = 0#32 ∧ t.resPayload &&& ~~~payloadMask = 0#32 ∧
      t.status.word &&& 0x00000FF0#32 = e.code.setWidth 32 <<< 4 ||| st.code.setWidth 32 <<< 8 :=
  ⟨_, decodeCommand_of_stageError hp hcode he, rfl, and_mask_reserved _ _, and_mask_reserved _ _,
    statusWord_and_errStage _⟩

/-- Settles O33: each stage's failure is one error of `decodeSamples`; ENCODE ends only with a check's error. -/
theorem decodeStageErrors : Obligations.DecodeStageErrors := by
  refine ⟨fun p s c code hr hf hc hcode => ?_, fun p s t h => ?_⟩
  · have hp : precheckCodec .dec s = .ok c := precheckCodec_ok.2 ⟨hr, hf, hc⟩
    exact ⟨fun hrm => decodeCommand_stageError_outcome hp hcode (decodeSamples_of_rateMatchFail hrm),
      fun hrm hpd => decodeCommand_stageError_outcome hp hcode (decodeSamples_of_polarFail hrm hpd),
      fun hrm hpd hcrc => decodeCommand_stageError_outcome hp hcode (decodeSamples_of_crcFail hrm hpd hcrc)⟩
  · rcases encodeCommand_ending h with ⟨e, hpre, ht⟩ | ht <;> rw [show t.status.err = _ from congrArg Prod.fst ht]
    · rcases precheckCodec_error hpre with rfl | rfl | rfl <;> decide
    · decide

end Sys2Proof.Machine
end

section
/-! PROOFS. What a platform reset leaves, and the host's first two writes after it (spec/70_reset_and_hazards.md). -/

namespace Sys2Proof.Machine

/-! ### The platform reset (R320, R321) -/

theorem step_reset {s : State} {rest : List HostEvent} (h : s.pending = .reset :: rest) :
    step s = .next (platformReset { s with pending := rest }) := by
  rw [step_event h, serveEvent]

/-- Every field of STATUS is 0 after reset, and so is its word (R320). -/
theorem statusWord_reset : Status.reset.word = 0#32 := by decide

/-- After a platform reset no grid byte is stored, so each is a value of this reset's number (R321). -/
theorem gridByte_platformReset (s : State) (a : Nat) :
    gridByte (platformReset s) a = Config.gridByteAtReset (s.resetCount + 1) a := by
  simp [gridByte, Memory.read?]

/-- CMD holds no state and reads 0 in every state (R33). -/
theorem hostReadWord_cmd (s : State) : hostReadWord s 0x000 = 0#32 := rfl

/-- Settles O10: a reset is a step of its own, and the rules of `platformReset` give each field it leaves. -/
theorem platformResetClearsBlock : Obligations.PlatformResetClearsBlock := by
  intro s rest h
  refine ⟨_, step_reset h, platformReset_status _, statusWord_reset, ?_⟩
  simp [hostReadWord_cmd, gridByte_platformReset]

/-! ### From the configuration to a ready block (R323) -/

/-- The enables of CFG are defined bits, so a write stores them (R41, R74). -/
theorem enEncField_and_cfgMask (w : Word) : enEncField (w &&& cfgMask) = w.getLsbD 24 := by
  simp [enEncField, cfgMask]

theorem enDecField_and_cfgMask (w : Word) : enDecField (w &&& cfgMask) = w.getLsbD 25 := by
  simp [enDecField, cfgMask]

/-- A served write of CFG stores its defined bits (R41, R74). -/
theorem step_write_cfg {s : State} {w : Word} {rest : List HostEvent} (hp : s.pending = .write .w32 0x008 w :: rest)
    (hb : s.status.busy = false) : step s = .next { s with pending := rest, cfg := w &&& cfgMask } :=
  step_write hp hb rfl (by decide) (by decide)

/-- A write of INIT to CMD with an enable set builds the enabled facets (default primitives, log 5). -/
theorem step_init {s : State} {rest : List HostEvent} (hp : s.pending = .write .w32 0 0x00000001#32 :: rest)
    (hb : s.status.busy = false) (hen : (enEncField s.cfg || enDecField s.cfg) = true) :
    ∃ c, step s = .next { s with
      pending := rest
      status := { s.status with
        ready := true
        encReady := enEncField s.cfg
        decReady := enDecField s.cfg
        err := .ok
        stage := .none
        busy := false }
      code := some c } := by
  have hdecode : decode 0x00000001#32 = .ok .init := decode_encodeWith 0x000000#24 .init
  obtain ⟨c, -, hinit⟩ := initBuildsEnabledFacets (beginCommand { s with pending := rest }) hen
  exact ⟨c, (step_command hp hb).trans ((startCommand_of_decode hdecode _).trans hinit)⟩

/-- Settles O25: the write of CFG is the first step of the run, and the INIT it enables the second. -/
theorem configureThenInitMakesReady : Obligations.ConfigureThenInitMakesReady := by
  intro s w rest hb hp hen
  have hfields : (enEncField (w &&& cfgMask) || enDecField (w &&& cfgMask)) = true := by
    rwa [enEncField_and_cfgMask, enDecField_and_cfgMask]
  have first := step_write_cfg hp hb
  obtain ⟨c, second⟩ := step_init (s := { s with pending := _, cfg := w &&& cfgMask }) rfl hb hfields
  exact ⟨_, (run_succ_of_step first 1).trans (run_succ_of_step second 0), rfl, rfl, rfl, enEncField_and_cfgMask w,
    enDecField_and_cfgMask w, rfl, rfl, rfl, rfl, rfl⟩

end Sys2Proof.Machine
end
